-- ==== Sys2Proof/Word.lean ====
section
/-! DEFINITION. The word types of the machine (spec/00_scope.md R3, R5; spec/30_encoding.md R60, R61). -/

namespace Sys2Proof

/-- A register or memory byte: an unsigned 8-bit value (R10, R40). -/
abbrev Byte := BitVec 8

/-- A 16-bit value: the instruction word, PC, I and the stack entries (R3). -/
abbrev Word := BitVec 16

/-- The 12-bit address field `NNN` of an instruction word (R61). -/
abbrev Addr12 := BitVec 12

/-- The index of a general register, 0 to 15: the fields `X` and `Y` (R61). -/
abbrev RegIx := Fin 16

end Sys2Proof
end

