-- ==== Sys2Proof/Config.lean ====
section
/-! DEFINITION. The parameters of the model (spec/00_scope.md R4) and its one free value, the random byte
(spec/44_random.md R131).

The parameters are plain data, held in the field `cfg` of the state, so that a statement about every state holds for
every setting of every parameter (DESIGN CHOICE, notes/assumptions/3.md, safe). -/

namespace Sys2Proof

/-- The parameter `SHIFT_SRC` of R4: which register 8XY6 and 8XYE read as the shift source. -/
inductive ShiftSrc where
  | vx
  | vy
  deriving DecidableEq, Repr

/-- The parameters of R4. `FONT_BASE` carries its bound 0x000 to 0x1B0 and `FONT_DATA` its length 80. -/
structure Config where
  /-- `SHIFT_SRC`: the shift source of 8XY6 and 8XYE (R125, R126). -/
  shiftSrc : ShiftSrc
  /-- `LOGIC_RESETS_VF`: whether 8XY1, 8XY2 and 8XY3 write VF <- 0 (R121). -/
  logicResetsVF : Bool
  /-- `ENABLE_FX1E`: whether FX1E is an instruction or InvalidOpcode (R112). -/
  enableFX1E : Bool
  /-- `FONT_BASE`: where the 80 font bytes stand (R43). -/
  fontBase : Fin 0x1B1
  /-- `FONT_DATA`: the 16 digit sprites of 5 bytes each (R44). -/
  fontData : Vector Byte 80
  deriving DecidableEq, Repr

/-- The sprites of the digits 0 to 7, top row first (the table of R44). -/
def Config.fontLow : List Byte :=
  [0xF0, 0x90, 0x90, 0x90, 0xF0] ++
  [0x20, 0x60, 0x20, 0x20, 0x70] ++
  [0xF0, 0x10, 0xF0, 0x80, 0xF0] ++
  [0xF0, 0x10, 0xF0, 0x10, 0xF0] ++
  [0x90, 0x90, 0xF0, 0x10, 0x10] ++
  [0xF0, 0x80, 0xF0, 0x10, 0xF0] ++
  [0xF0, 0x80, 0xF0, 0x90, 0xF0] ++
  [0xF0, 0x10, 0x20, 0x40, 0x40]

/-- The sprites of the digits 8 to F, top row first (the table of R44). -/
def Config.fontHigh : List Byte :=
  [0xF0, 0x90, 0xF0, 0x90, 0xF0] ++
  [0xF0, 0x90, 0xF0, 0x10, 0xF0] ++
  [0xF0, 0x90, 0xF0, 0x90, 0x90] ++
  [0xE0, 0x90, 0xE0, 0x90, 0xE0] ++
  [0xF0, 0x80, 0x80, 0x80, 0xF0] ++
  [0xE0, 0x90, 0x90, 0x90, 0xE0] ++
  [0xF0, 0x80, 0xF0, 0x80, 0xF0] ++
  [0xF0, 0x80, 0xF0, 0x80, 0x80]

/-- The default `FONT_DATA` of R44. -/
def Config.defaultFont : Vector Byte 80 :=
  ⟨(Config.fontLow ++ Config.fontHigh).toArray, by decide⟩

/-- The defaults of R4: `SHIFT_SRC = VX`, `LOGIC_RESETS_VF = false`, `ENABLE_FX1E = false`, `FONT_BASE = 0x000`, the
conventional font. -/
def Config.default : Config where
  shiftSrc := .vx
  logicResetsVF := false
  enableFX1E := false
  fontBase := 0
  fontData := Config.defaultFont

/-- The `RNG` input of R4 and R131: the sequence of bytes the host supplies, one per executed CXNN, in execution order.
A FREE VALUE: it has no body, so nothing can be proved of any of its bytes (notes/assumptions/4.md, safe). -/
opaque Config.randomByte : Nat → Byte

end Sys2Proof
end

