-- ==== Sys2Proof/Machine/State.lean ====
section
/-! DEFINITION. The state of the machine: the tuple of spec/10_state.md, one field per piece of state, with two fields of
the model's own (`cfg`, `rngPos`); the fault kinds of spec/60_exceptions.md R160; the state after reset (R30, R191). -/

namespace Sys2Proof.Machine

/-- The four fault kinds a step can raise and the latch FAULT can hold (R160, R161). As the fault of `Host.Outcome` a
kind is what `step` answers on a machine that is already Halted: R163 says that every later step returns the latched
kind and changes no state. The step that RAISES a fault answers a next state, the entry of R163 (`takeFault`). Safe. -/
inductive Fault where
  /-- Code 1. Raised at decode by a word that is no instruction, and by SYS (and ADD I, VX while it is disabled); answered
  again by every step on the machine it halted. Safe. -/
  | invalidOpcode
  /-- Code 2. Raised at fetch with PC at 0xFFF or above, and by FX33, FX55, FX65 and DXYN when an address is above 0xFFF;
  answered again by every step on the machine it halted. Safe. -/
  | memoryFault
  /-- Code 3. Raised by 2NNN with 16 entries on the stack; answered again by every step on the machine it halted. Safe. -/
  | stackOverflow
  /-- Code 4. Raised by 00EE on an empty stack; answered again by every step on the machine it halted. Safe. -/
  | stackUnderflow
  deriving DecidableEq, Repr

/-- Why the model gives an instruction no meaning. -/
inductive Refusal where
  /-- An instruction whose arm in Machine/Dispatch.lean has no meaning yet: no arm raises it, every instruction is
  modelled. Safe. -/
  | notModelled (mnemonic : String)
  deriving DecidableEq, Repr

/-- The display buffer `D[y][x]`: 32 rows, top first, of 64 pixels, left first (R22). -/
abbrev Display := Vector (Vector Bool 64) 32

/-- Memory as the bytes that differ from what `load` of the empty image left, by rising address (Machine/Memory.lean
says what an address not listed reads as). -/
abbrev Memory := List Host.Cell

/-- The state tuple of spec/10_state.md, and the model's own `cfg` and `rngPos`. -/
structure State where
  /-- The general registers V0 to VF (R10). -/
  v : Vector Byte 16
  /-- The index register I (R17). -/
  i : Word
  /-- The program counter: the address of the instruction to fetch or in execution (R13). -/
  pc : Word
  /-- The stack pointer SP: how many stack entries are in use, 0 to 16 (R21). -/
  sp : Fin 17
  /-- The call stack, outside memory; the entries at SP and above are dead (R21). -/
  stack : Vector Word 16
  /-- The delay timer DT (R18). -/
  dt : Byte
  /-- The sound timer ST (R19). -/
  st : Byte
  /-- The display buffer (R22). -/
  display : Display
  /-- DIRTY, the "changed since last read" signal (R23). -/
  dirty : Bool
  /-- The keypad state, true for pressed (R24). -/
  key : Vector Bool 16
  /-- The 4096 bytes of MEM, as the listed differences (R26, R40). -/
  mem : Memory
  /-- PROG_LEN, the length of the loaded image (R29). -/
  progLen : BitVec 12
  /-- WAIT: true is the sub-state AwaitingKey (R25). -/
  wait : Bool
  /-- WREG: the register the suspended FX0A writes, meaningful while WAIT (R25). -/
  wreg : RegIx
  /-- FAULT: the latched fault, none while the machine is not Halted (R28). -/
  fault : Option Fault
  /-- The parameters of R4, written by no operation (the model's own field, notes/assumptions/3.md). -/
  cfg : Config
  /-- How many bytes of the random input have been consumed (the model's own field, notes/assumptions/4.md). -/
  rngPos : Nat
  deriving DecidableEq, Repr

/-- The state at power-on: the result of `load` with the empty image (R191), by the table of R30, with the default
parameters of R4 and no random byte consumed. -/
def State.reset : State where
  v := Vector.replicate 16 0
  i := 0
  pc := 0x200
  sp := 0
  stack := Vector.replicate 16 0
  dt := 0
  st := 0
  display := Vector.replicate 32 (Vector.replicate 64 false)
  dirty := false
  key := Vector.replicate 16 false
  mem := []
  progLen := 0
  wait := false
  wreg := 0
  fault := none
  cfg := Config.default
  rngPos := 0

end Sys2Proof.Machine
end

