-- ==== Sys2Proof/Machine/Memory.lean ====
section
/-! DEFINITION. Memory as data (spec/20_memory.md): what an unlisted address reads as, the canonical form, reading and
writing one byte. These operations check no bound: R45 and R46's check of 0xFFF is the caller's, made for the whole
instruction first (R48). -/

namespace Sys2Proof.Machine

/-- The number of bytes of MEM: the addresses are 0x000 to 0xFFF (R3, R40). -/
def memSize : Nat := 4096

/-- What an address reads as that the list does not name: the contents of memory after `load` of the empty image, which
is the font at FONT_BASE and 0 everywhere else (R30, R43; notes/assumptions/5.md). -/
def Memory.background (c : Config) (a : Nat) : Byte :=
  if h : c.fontBase.val ≤ a ∧ a < c.fontBase.val + 80 then c.fontData[a - c.fontBase.val] else 0

/-- The canonical form: addresses strictly rising, every one inside MEM, and no entry equal to what its address reads as
when it is not listed. -/
abbrev Memory.wf (c : Config) (m : Memory) : Prop :=
  m.Pairwise (fun p q => p.1 < q.1) ∧ ∀ p ∈ m, p.1 < memSize ∧ p.2 ≠ Memory.background c p.1

/-- `MEM[a]` (R6): the byte listed at `a`, or the background. -/
def Memory.read (c : Config) : Memory → Nat → Byte
  | [], a => Memory.background c a
  | (k, b) :: m, a => if k = a then b else Memory.read c m a

/-- List the byte `b` at `a`, before the first entry of a higher address. -/
def Memory.insert (a : Nat) (b : Byte) : Memory → Memory
  | [] => [(a, b)]
  | (k, c) :: m => if a < k then (a, b) :: (k, c) :: m else (k, c) :: Memory.insert a b m

/-- `MEM[a] <- b` (R46): the entry at `a` is replaced, or dropped when `b` is what `a` reads as unlisted. -/
def Memory.write (c : Config) (m : Memory) (a : Nat) (b : Byte) : Memory :=
  let rest := m.filter (fun p => p.1 ≠ a)
  if b = Memory.background c a then rest else Memory.insert a b rest

/-- Bytes written one after another at `a`, `a + 1`, … (R49). -/
def Memory.writeAll (c : Config) : Memory → Nat → List Byte → Memory
  | m, _, [] => m
  | m, a, b :: bs => Memory.writeAll c (Memory.write c m a b) (a + 1) bs

end Sys2Proof.Machine
end

