-- ==== Sys2Proof/Machine/Ops.lean ====
section
/-! DEFINITION. The named operations every meaning is built from: registers, memory, the call stack, the program counter,
and fault entry. -/

namespace Sys2Proof.Machine

/-! ### General registers (R10) -/

/-- `V[x]` (R6). -/
def State.reg (s : State) (x : RegIx) : Byte := s.v[x.val]

/-- `V[x] <- b` (R6). No register is hard-wired (R10). -/
def State.setReg (s : State) (x : RegIx) (b : Byte) : State := { s with v := s.v.set x.val b }

/-- `VF <- 1` or `VF <- 0`: the flag output (R11). -/
def State.setFlag (s : State) (f : Bool) : State := s.setReg 15 (if f then 1 else 0)

/-- `V[x]` takes the result and then VF the flag: with X = 15 the flag remains (R119). -/
def State.setRegFlag (s : State) (x : RegIx) (b : Byte) (f : Bool) : State := (s.setReg x b).setFlag f

/-- `V[0]` to `V[x]` take the bytes at `a`, `a + 1`, …; the registers above keep their values (R108). -/
def State.loadRegsFrom (s : State) (x : RegIx) (a : Nat) : State :=
  { s with v := Vector.ofFn fun j : Fin 16 =>
      if j ≤ x then Memory.read s.cfg s.mem (a + j.val) else s.v[j.val] }

/-- The values of `V[0]` to `V[x]`, in that order (R107). -/
def State.regsUpTo (s : State) (x : RegIx) : List Byte := s.v.toList.take (x.val + 1)

/-! ### The other registers -/

/-- `I <- w` (R17). -/
def State.setI (s : State) (w : Word) : State := { s with i := w }

/-- `DT <- b` (R18). -/
def State.setDT (s : State) (b : Byte) : State := { s with dt := b }

/-- `ST <- b` (R19). -/
def State.setST (s : State) (b : Byte) : State := { s with st := b }

/-! ### The program counter (R13, R68) -/

/-- `PC <- target`, in place of the default advance (R6). -/
def State.jump (s : State) (target : Word) : State := { s with pc := target }

/-- The default advance `PC <- PC + 2`, in 16 bits (R68). -/
def State.advance (s : State) : State := { s with pc := s.pc + 2 }

/-- The end of a skip: PC moves past the next instruction when the condition holds (R90). -/
def State.skipIf (s : State) (c : Bool) : State := { s with pc := if c then s.pc + 4 else s.pc + 2 }

/-! ### Memory (R45, R46, R48) -/

/-- `MEM[a]`, raw: the byte at address `a`, with no check of the bound (R6). -/
def State.readByte (s : State) (a : Nat) : Byte := Memory.read s.cfg s.mem a

/-- `MEM[a] <- b`, raw: with no check of the bound (R6). -/
def State.writeByte (s : State) (a : Nat) (b : Byte) : State := { s with mem := Memory.write s.cfg s.mem a b }

/-- The `n` bytes at `a`, `a + 1`, …. -/
def State.readBytes (s : State) (a : Nat) : Nat → List Byte
  | 0 => []
  | n + 1 => s.readByte a :: s.readBytes (a + 1) n

/-- Store bytes one after another at ascending addresses (R49). -/
def State.writeBytes (s : State) (a : Nat) (bs : List Byte) : State :=
  { s with mem := Memory.writeAll s.cfg s.mem a bs }

/-- The bound of R45 and R46: an address inside MEM. -/
def inMemory (a : Nat) : Bool := a < memSize

/-! ### The call stack (R21) -/

/-- Push a return address; none when 16 entries are in use (R82). -/
def State.push (s : State) (w : Word) : Option State :=
  if h : s.sp.val < 16 then
    some { s with stack := s.stack.set s.sp.val w, sp := ⟨s.sp.val + 1, by omega⟩ }
  else none

/-- Pop the top entry: its value and the state with SP one lower; none when the stack is empty. The entry keeps its value
and is dead (R21, R83). -/
def State.pop (s : State) : Option (Word × State) :=
  if h : 0 < s.sp.val then
    some (s.stack[s.sp.val - 1], { s with sp := ⟨s.sp.val - 1, by omega⟩ })
  else none

/-! ### Taking a fault (R163, R164)

The one operation by which a fetch, a decode or an instruction raises a fault. There is no return from a fault: the only
exit is a successful `load` (R165; Machine/HostOps.lean). -/

/-- `raise K` (R6): every pending write is discarded, since `s` is the state before the instruction; FAULT takes the kind;
PC stays at the instruction; nothing else changes. The machine goes on as a Halted one, so this is a next state. -/
def takeFault (k : Fault) (s : State) : Host.Outcome State Fault Refusal := .next { s with fault := some k }

end Sys2Proof.Machine
end

