-- ==== Sys2Proof/Machine/Operands.lean ====
section
/-! DEFINITION. The operand forms of spec/30_encoding.md R63: register and immediate need no computation; here are the
absolute address, the address plus V0, the address through I, the font address, the key index, the shift source and the
decimal digits. -/

namespace Sys2Proof.Machine

/-- `zext_16(NNN)`: a 12-bit address in a 16-bit register (R63). -/
def absolute (nnn : Addr12) : Word := nnn.setWidth 16

/-- `NNN + V[0]`, at most 0x10FE, not reduced to 12 bits (R84). -/
def absolutePlusV0 (s : State) (nnn : Addr12) : Word := BitVec.ofNat 16 (nnn.toNat + (s.reg 0).toNat)

/-- The address `I + offset` on unbounded integers: it never wraps (R5, R113). -/
def State.addrI (s : State) (offset : Nat) : Nat := s.i.toNat + offset

/-- `FONT_BASE + V[x] × 5`, with the whole of VX (R106). -/
def fontAddress (s : State) (x : RegIx) : Word := BitVec.ofNat 16 (s.cfg.fontBase.val + (s.reg x).toNat * 5)

/-- The key a skip tests: the low 4 bits of VX (R95, R96). -/
def keyIndex (b : Byte) : Fin 16 := (b.extractLsb' 0 4).toFin

/-- `KEY[V[x] & 0xF]` (R95, R96). -/
def State.keyOf (s : State) (x : RegIx) : Bool := s.key[(keyIndex (s.reg x)).val]

/-- The shift source: V[x] or V[y], as `SHIFT_SRC` says (R125, R126). -/
def shiftSource (s : State) (x y : RegIx) : Byte :=
  match s.cfg.shiftSrc with
  | .vx => s.reg x
  | .vy => s.reg y

/-- The hundreds, tens and units of a byte, one digit a byte (R133). -/
def decimalDigits (b : Byte) : List Byte :=
  [BitVec.ofNat 8 (b.toNat / 100), BitVec.ofNat 8 (b.toNat / 10 % 10), BitVec.ofNat 8 (b.toNat % 10)]

end Sys2Proof.Machine
end

