-- ==== Sys2Proof/Machine/Flags.lean ====
section
/-! DEFINITION. The results and flags of spec/43_arithmetic_logic.md, on exact integers and narrowed at the end (R120).
There is no flags register: a flag is the value 0 or 1 written to VF (R16, R119). -/

namespace Sys2Proof.Machine

/-- `(a + b) mod 256` (R115, R116). -/
def addResult (a b : Byte) : Byte := BitVec.ofNat 8 (a.toNat + b.toNat)

/-- Carry: the exact sum is above 255 (R116). -/
def addCarry (a b : Byte) : Bool := a.toNat + b.toNat > 255

/-- `(a - b) mod 256`, the mathematical mod (R117, R118, R120). -/
def subResult (a b : Byte) : Byte := BitVec.ofInt 8 ((a.toNat : Int) - (b.toNat : Int))

/-- Not borrow: `a ≥ b` (R117, R118). -/
def notBorrow (a b : Byte) : Bool := a.toNat ≥ b.toNat

/-- `s >> 1`, a logical shift (R125). -/
def shrResult (a : Byte) : Byte := BitVec.ofNat 8 (a.toNat / 2)

/-- The bit a right shift moves out, `s[0]` (R125). -/
def shrOut (a : Byte) : Bool := a.getLsbD 0

/-- `(s << 1) mod 256` (R126). -/
def shlResult (a : Byte) : Byte := BitVec.ofNat 8 (2 * a.toNat)

/-- The bit a left shift moves out, `s[7]` (R126). -/
def shlOut (a : Byte) : Bool := a.getLsbD 7

/-- The end of 8XY1, 8XY2 and 8XY3: VX takes the result, and then VF takes 0 if `LOGIC_RESETS_VF` (R121). -/
def State.setLogic (s : State) (x : RegIx) (b : Byte) : State :=
  if s.cfg.logicResetsVF then s.setRegFlag x b false else s.setReg x b

end Sys2Proof.Machine
end

