-- ==== Sys2Proof/Machine/Arith.lean ====
section
/-! DEFINITION. spec/43_arithmetic_logic.md: 7XNN, 8XY4, 8XY5, 8XY7, 8XY1, 8XY2, 8XY3, 8XY6, 8XYE. Every operand is read
from the state before the instruction (R119). -/

namespace Sys2Proof.Machine

/-- `ADD VX, NN` (R115): no flag. -/
def execAddImm (x : RegIx) (nn : Byte) (s : State) : Host.Outcome State Fault Refusal :=
  .next (s.setReg x (addResult (s.reg x) nn)).advance

/-- `ADD VX, VY` (R116): VF is the carry. -/
def execAddReg (x y : RegIx) (s : State) : Host.Outcome State Fault Refusal :=
  .next (s.setRegFlag x (addResult (s.reg x) (s.reg y)) (addCarry (s.reg x) (s.reg y))).advance

/-- `SUB VX, VY` (R117): VF is 1 if VX ≥ VY. -/
def execSub (x y : RegIx) (s : State) : Host.Outcome State Fault Refusal :=
  .next (s.setRegFlag x (subResult (s.reg x) (s.reg y)) (notBorrow (s.reg x) (s.reg y))).advance

/-- `SUBN VX, VY` (R118): VX takes VY - VX, VF is 1 if VY ≥ VX. -/
def execSubn (x y : RegIx) (s : State) : Host.Outcome State Fault Refusal :=
  .next (s.setRegFlag x (subResult (s.reg y) (s.reg x)) (notBorrow (s.reg y) (s.reg x))).advance

/-- `OR VX, VY` (R122). -/
def execOrReg (x y : RegIx) (s : State) : Host.Outcome State Fault Refusal :=
  .next (s.setLogic x (s.reg x ||| s.reg y)).advance

/-- `AND VX, VY` (R123). -/
def execAndReg (x y : RegIx) (s : State) : Host.Outcome State Fault Refusal :=
  .next (s.setLogic x (s.reg x &&& s.reg y)).advance

/-- `XOR VX, VY` (R124). -/
def execXorReg (x y : RegIx) (s : State) : Host.Outcome State Fault Refusal :=
  .next (s.setLogic x (s.reg x ^^^ s.reg y)).advance

/-- `SHR VX, VY` (R125): VF is the bit shifted out. -/
def execShr (x y : RegIx) (s : State) : Host.Outcome State Fault Refusal :=
  .next (s.setRegFlag x (shrResult (shiftSource s x y)) (shrOut (shiftSource s x y))).advance

/-- `SHL VX, VY` (R126): VF is the bit shifted out. -/
def execShl (x y : RegIx) (s : State) : Host.Outcome State Fault Refusal :=
  .next (s.setRegFlag x (shlResult (shiftSource s x y)) (shlOut (shiftSource s x y))).advance

end Sys2Proof.Machine
end

