-- ==== Sys2Proof/Machine/Sprite.lean ====
section
/-! DEFINITION. The display buffer and the sprite XOR compositor (spec/46_draw.md R135 to R138). -/

namespace Sys2Proof.Machine

/-- The pixel `D[y][x]` (R22). -/
def Display.pixel (d : Display) (x : Fin 64) (y : Fin 32) : Bool := d[y.val][x.val]

/-- `D[y][x] <- D[y][x] ^ 1` (R135). -/
def Display.flip (d : Display) (x : Fin 64) (y : Fin 32) : Display :=
  d.set y.val (d[y.val].set x.val (!Display.pixel d x y))

/-- All pixels unset (R80). -/
def Display.blank : Display := Vector.replicate 32 (Vector.replicate 64 false)

/-- Sprite column `c` of sprite row `r`, whose byte is `b`, drawn at (x0, y0) on a display and the collision flag so far:
bit 7 is the leftmost pixel (R136), both coordinates wrap (R137), a set pixel that is flipped is a collision (R138). -/
def drawPixel (x0 y0 : Byte) (r : Nat) (b : Byte) (acc : Display × Bool) (c : Nat) : Display × Bool :=
  if b.getLsbD (7 - c) then
    let x : Fin 64 := Fin.ofNat 64 (x0.toNat + c)
    let y : Fin 32 := Fin.ofNat 32 (y0.toNat + r)
    (Display.flip acc.1 x y, acc.2 || Display.pixel acc.1 x y)
  else acc

/-- One sprite row: its eight columns, left first (R135). -/
def drawRow (x0 y0 : Byte) (r : Nat) (b : Byte) (acc : Display × Bool) : Display × Bool :=
  (List.range 8).foldl (drawPixel x0 y0 r b) acc

/-- The sprite rows from row `r` on, top first (R135). -/
def drawRows (x0 y0 : Byte) : Nat → List Byte → Display × Bool → Display × Bool
  | _, [], acc => acc
  | r, b :: bs, acc => drawRows x0 y0 (r + 1) bs (drawRow x0 y0 r b acc)

/-- The whole sprite on a display: the new display and the collision flag (R135). -/
def drawSprite (x0 y0 : Byte) (sprite : List Byte) (d : Display) : Display × Bool :=
  drawRows x0 y0 0 sprite (d, false)

end Sys2Proof.Machine
end

