-- ==== Sys2Proof/Machine/ControlFlow.lean ====
section
/-! DEFINITION. spec/40_control_flow.md: 00E0, 00EE, 1NNN, 2NNN, BNNN. -/

namespace Sys2Proof.Machine

/-- `CLS` (R80): every pixel 0, DIRTY set. -/
def execCls (s : State) : Host.Outcome State Fault Refusal :=
  .next { s with display := Display.blank, dirty := true }.advance

/-- `RET` (R83): PC takes the top of the stack, with no further +2. -/
def execRet (s : State) : Host.Outcome State Fault Refusal :=
  match s.pop with
  | some (target, t) => .next (t.jump target)
  | none => takeFault .stackUnderflow s

/-- `JP NNN` (R81). -/
def execJp (nnn : Addr12) (s : State) : Host.Outcome State Fault Refusal :=
  .next (s.jump (absolute nnn))

/-- `CALL NNN` (R82): PC + 2 is pushed. -/
def execCall (nnn : Addr12) (s : State) : Host.Outcome State Fault Refusal :=
  match s.push (s.pc + 2) with
  | some t => .next (t.jump (absolute nnn))
  | none => takeFault .stackOverflow s

/-- `JP V0, NNN` (R84). -/
def execJpV0 (nnn : Addr12) (s : State) : Host.Outcome State Fault Refusal :=
  .next (s.jump (absolutePlusV0 s nnn))

end Sys2Proof.Machine
end

