-- ==== Sys2Proof/Machine/Draw.lean ====
section
/-! DEFINITION. spec/46_draw.md: DXYN. -/

namespace Sys2Proof.Machine

/-- The N bytes of the sprite, at I, I + 1, … (R136). -/
def spriteBytes (s : State) (n : Fin 16) : List Byte := s.readBytes (s.addrI 0) n.val

/-- `DRW VX, VY, N` (R135): the whole range is checked first, and not at all when N = 0 (R140); VX and VY are read before
VF is written (R139); VF takes the collision flag, DIRTY is set; I and memory are unchanged. -/
def execDrw (x y : RegIx) (n : Fin 16) (s : State) : Host.Outcome State Fault Refusal :=
  if n.val = 0 ∨ inMemory (s.addrI (n.val - 1)) then
    let drawn := drawSprite (s.reg x) (s.reg y) (spriteBytes s n) s.display
    .next ({ s with display := drawn.1, dirty := true }.setFlag drawn.2).advance
  else takeFault .memoryFault s

end Sys2Proof.Machine
end

