-- ==== Sys2Proof/Machine/Invalid.lean ====
section
/-! DEFINITION. spec/48_invalid.md: 0NNN. -/

namespace Sys2Proof.Machine

/-- `SYS NNN` (R150): InvalidOpcode, always; NNN is unused. -/
def execSys (_nnn : Addr12) (s : State) : Host.Outcome State Fault Refusal := takeFault .invalidOpcode s

end Sys2Proof.Machine
end

