-- ==== Sys2Proof/Machine/KeyWait.lean ====
section
/-! DEFINITION. spec/47_key_wait.md: FX0A. What completes the wait is the key-press event (R147; Machine/HostOps.lean). -/

namespace Sys2Proof.Machine

/-- `LD VX, K` (R145): the machine is suspended for register X; PC stays at the instruction. -/
def execWaitKey (x : RegIx) (s : State) : Host.Outcome State Fault Refusal :=
  .next { s with wait := true, wreg := x }

end Sys2Proof.Machine
end

