-- ==== Sys2Proof/Machine/LoadStore.lean ====
section
/-! DEFINITION. spec/42_load_store.md: 6XNN, 8XY0, ANNN, FX07, FX15, FX18, FX29, FX55, FX65, and the optional FX1E. -/

namespace Sys2Proof.Machine

/-- `LD VX, NN` (R100). -/
def execLdImm (x : RegIx) (nn : Byte) (s : State) : Host.Outcome State Fault Refusal :=
  .next (s.setReg x nn).advance

/-- `LD VX, VY` (R101). -/
def execLdReg (x y : RegIx) (s : State) : Host.Outcome State Fault Refusal :=
  .next (s.setReg x (s.reg y)).advance

/-- `LD I, NNN` (R102). -/
def execLdI (nnn : Addr12) (s : State) : Host.Outcome State Fault Refusal :=
  .next (s.setI (absolute nnn)).advance

/-- `LD VX, DT` (R103). -/
def execLdFromDT (x : RegIx) (s : State) : Host.Outcome State Fault Refusal :=
  .next (s.setReg x s.dt).advance

/-- `LD DT, VX` (R104). -/
def execLdDT (x : RegIx) (s : State) : Host.Outcome State Fault Refusal :=
  .next (s.setDT (s.reg x)).advance

/-- `LD ST, VX` (R105). -/
def execLdST (x : RegIx) (s : State) : Host.Outcome State Fault Refusal :=
  .next (s.setST (s.reg x)).advance

/-- `LD F, VX` (R106). -/
def execLdFont (x : RegIx) (s : State) : Host.Outcome State Fault Refusal :=
  .next (s.setI (fontAddress s x)).advance

/-- `LD [I], VX` (R107): the whole range is checked first (R48); I is unchanged. -/
def execStoreRegs (x : RegIx) (s : State) : Host.Outcome State Fault Refusal :=
  if inMemory (s.addrI x.val) then .next (s.writeBytes (s.addrI 0) (s.regsUpTo x)).advance
  else takeFault .memoryFault s

/-- `LD VX, [I]` (R108): the whole range is checked first (R48); I is unchanged. -/
def execLoadRegs (x : RegIx) (s : State) : Host.Outcome State Fault Refusal :=
  if inMemory (s.addrI x.val) then .next (s.loadRegsFrom x (s.addrI 0)).advance
  else takeFault .memoryFault s

/-- `ADD I, VX` (R112): an instruction under `ENABLE_FX1E`, the sum kept to the 16 bits of I, VF not written; otherwise
the word FX1E raises InvalidOpcode (R151). -/
def execAddI (x : RegIx) (s : State) : Host.Outcome State Fault Refusal :=
  if s.cfg.enableFX1E then .next (s.setI (BitVec.ofNat 16 (s.i.toNat + (s.reg x).toNat))).advance
  else takeFault .invalidOpcode s

end Sys2Proof.Machine
end

