-- ==== Sys2Proof/Machine/RandomBcd.lean ====
section
/-! DEFINITION. spec/44_random.md: CXNN; spec/45_bcd.md: FX33. -/

namespace Sys2Proof.Machine

/-- `draw_byte()` (R131): the next byte of the random input, a free value, and the state with one byte consumed. -/
def drawByte (s : State) : Byte × State := (Config.randomByte s.rngPos, { s with rngPos := s.rngPos + 1 })

/-- `RND VX, NN` (R130). -/
def execRnd (x : RegIx) (nn : Byte) (s : State) : Host.Outcome State Fault Refusal :=
  .next ((drawByte s).2.setReg x ((drawByte s).1 &&& nn)).advance

/-- `LD B, VX` (R133): the whole range is checked first (R48); I is unchanged. -/
def execLdBCD (x : RegIx) (s : State) : Host.Outcome State Fault Refusal :=
  if inMemory (s.addrI 2) then .next (s.writeBytes (s.addrI 0) (decimalDigits (s.reg x))).advance
  else takeFault .memoryFault s

end Sys2Proof.Machine
end

