-- ==== Sys2Proof/Machine/Skip.lean ====
section
/-! DEFINITION. spec/41_conditional_skip.md: 3XNN, 4XNN, 5XY0, 9XY0, EX9E, EXA1. -/

namespace Sys2Proof.Machine

/-- `SE VX, NN` (R91). -/
def execSeImm (x : RegIx) (nn : Byte) (s : State) : Host.Outcome State Fault Refusal :=
  .next (s.skipIf (s.reg x = nn))

/-- `SNE VX, NN` (R92). -/
def execSneImm (x : RegIx) (nn : Byte) (s : State) : Host.Outcome State Fault Refusal :=
  .next (s.skipIf (s.reg x ≠ nn))

/-- `SE VX, VY` (R93). -/
def execSeReg (x y : RegIx) (s : State) : Host.Outcome State Fault Refusal :=
  .next (s.skipIf (s.reg x = s.reg y))

/-- `SNE VX, VY` (R94). -/
def execSneReg (x y : RegIx) (s : State) : Host.Outcome State Fault Refusal :=
  .next (s.skipIf (s.reg x ≠ s.reg y))

/-- `SKP VX` (R95): the key is only read. -/
def execSkp (x : RegIx) (s : State) : Host.Outcome State Fault Refusal :=
  .next (s.skipIf (s.keyOf x))

/-- `SKNP VX` (R96). -/
def execSknp (x : RegIx) (s : State) : Host.Outcome State Fault Refusal :=
  .next (s.skipIf (!s.keyOf x))

end Sys2Proof.Machine
end

