-- ==== Sys2Proof/Syntax.lean ====
section
/-! DEFINITION. The instructions: one constructor per row of spec/opcode_table.json, in the order of the list of
spec/30_encoding.md R66. -/

namespace Sys2Proof

/-- The instruction forms of R66. `x` and `y` are register indexes, `nn` an 8-bit immediate, `nnn` a 12-bit address,
`n` a nibble (R61); every one is used as the unsigned integer that stands in the word (R63). -/
inductive Instr where
  /-- 00E0 `CLS` (R80). -/
  | cls
  /-- 00EE `RET` (R83). -/
  | ret
  /-- 1NNN `JP NNN` (R81). -/
  | jp (nnn : Addr12)
  /-- 2NNN `CALL NNN` (R82). -/
  | call (nnn : Addr12)
  /-- BNNN `JP V0, NNN` (R84). -/
  | jpV0 (nnn : Addr12)
  /-- 3XNN `SE VX, NN` (R91). -/
  | seImm (x : RegIx) (nn : Byte)
  /-- 4XNN `SNE VX, NN` (R92). -/
  | sneImm (x : RegIx) (nn : Byte)
  /-- 5XY0 `SE VX, VY` (R93). -/
  | seReg (x y : RegIx)
  /-- 9XY0 `SNE VX, VY` (R94). -/
  | sneReg (x y : RegIx)
  /-- EX9E `SKP VX` (R95). -/
  | skp (x : RegIx)
  /-- EXA1 `SKNP VX` (R96). -/
  | sknp (x : RegIx)
  /-- 6XNN `LD VX, NN` (R100). -/
  | ldImm (x : RegIx) (nn : Byte)
  /-- 8XY0 `LD VX, VY` (R101). -/
  | ldReg (x y : RegIx)
  /-- ANNN `LD I, NNN` (R102). -/
  | ldI (nnn : Addr12)
  /-- FX07 `LD VX, DT` (R103). -/
  | ldFromDT (x : RegIx)
  /-- FX15 `LD DT, VX` (R104). -/
  | ldDT (x : RegIx)
  /-- FX18 `LD ST, VX` (R105). -/
  | ldST (x : RegIx)
  /-- FX29 `LD F, VX` (R106). -/
  | ldFont (x : RegIx)
  /-- FX55 `LD [I], VX` (R107). -/
  | storeRegs (x : RegIx)
  /-- FX65 `LD VX, [I]` (R108). -/
  | loadRegs (x : RegIx)
  /-- 7XNN `ADD VX, NN` (R115). -/
  | addImm (x : RegIx) (nn : Byte)
  /-- 8XY4 `ADD VX, VY` (R116). -/
  | addReg (x y : RegIx)
  /-- 8XY5 `SUB VX, VY` (R117). -/
  | sub (x y : RegIx)
  /-- 8XY7 `SUBN VX, VY` (R118). -/
  | subn (x y : RegIx)
  /-- 8XY1 `OR VX, VY` (R122). -/
  | orReg (x y : RegIx)
  /-- 8XY2 `AND VX, VY` (R123). -/
  | andReg (x y : RegIx)
  /-- 8XY3 `XOR VX, VY` (R124). -/
  | xorReg (x y : RegIx)
  /-- 8XY6 `SHR VX, VY` (R125). -/
  | shr (x y : RegIx)
  /-- 8XYE `SHL VX, VY` (R126). -/
  | shl (x y : RegIx)
  /-- CXNN `RND VX, NN` (R130). -/
  | rnd (x : RegIx) (nn : Byte)
  /-- FX33 `LD B, VX` (R133). -/
  | ldBCD (x : RegIx)
  /-- DXYN `DRW VX, VY, N` (R135). -/
  | drw (x y : RegIx) (n : Fin 16)
  /-- FX0A `LD VX, K` (R145). -/
  | waitKey (x : RegIx)
  /-- 0NNN `SYS NNN`, but for 00E0 and 00EE (R150). -/
  | sys (nnn : Addr12)
  /-- FX1E `ADD I, VX`, an instruction only under `ENABLE_FX1E` (R112). -/
  | addI (x : RegIx)
  deriving DecidableEq, Repr

end Sys2Proof
end

