-- ==== Sys2Proof/Machine/Dispatch.lean ====
section
/-! DEFINITION. The meaning of every instruction: one arm per constructor of `Instr`. -/

namespace Sys2Proof.Machine

/-- Execute one instruction on the state before it (spec/30_encoding.md R67, "execute instr per its rule"). -/
def exec (i : Instr) (s : State) : Host.Outcome State Fault Refusal :=
  match i with
  -- control flow (spec/40_control_flow.md)
  | .cls => Sys2Proof.Machine.execCls s
  | .ret => Sys2Proof.Machine.execRet s
  | .jp nnn => Sys2Proof.Machine.execJp nnn s
  | .call nnn => Sys2Proof.Machine.execCall nnn s
  | .jpV0 nnn => Sys2Proof.Machine.execJpV0 nnn s
  -- conditional skips (spec/41_conditional_skip.md)
  | .seImm x nn => Sys2Proof.Machine.execSeImm x nn s
  | .sneImm x nn => Sys2Proof.Machine.execSneImm x nn s
  | .seReg x y => Sys2Proof.Machine.execSeReg x y s
  | .sneReg x y => Sys2Proof.Machine.execSneReg x y s
  | .skp x => Sys2Proof.Machine.execSkp x s
  | .sknp x => Sys2Proof.Machine.execSknp x s
  -- loads and stores (spec/42_load_store.md)
  | .ldImm x nn => Sys2Proof.Machine.execLdImm x nn s
  | .ldReg x y => Sys2Proof.Machine.execLdReg x y s
  | .ldI nnn => Sys2Proof.Machine.execLdI nnn s
  | .ldFromDT x => Sys2Proof.Machine.execLdFromDT x s
  | .ldDT x => Sys2Proof.Machine.execLdDT x s
  | .ldST x => Sys2Proof.Machine.execLdST x s
  | .ldFont x => Sys2Proof.Machine.execLdFont x s
  | .storeRegs x => Sys2Proof.Machine.execStoreRegs x s
  | .loadRegs x => Sys2Proof.Machine.execLoadRegs x s
  -- arithmetic and logic (spec/43_arithmetic_logic.md)
  | .addImm x nn => Sys2Proof.Machine.execAddImm x nn s
  | .addReg x y => Sys2Proof.Machine.execAddReg x y s
  | .sub x y => Sys2Proof.Machine.execSub x y s
  | .subn x y => Sys2Proof.Machine.execSubn x y s
  | .orReg x y => Sys2Proof.Machine.execOrReg x y s
  | .andReg x y => Sys2Proof.Machine.execAndReg x y s
  | .xorReg x y => Sys2Proof.Machine.execXorReg x y s
  | .shr x y => Sys2Proof.Machine.execShr x y s
  | .shl x y => Sys2Proof.Machine.execShl x y s
  -- random, BCD, draw, key wait (spec/44_random.md, 45_bcd.md, 46_draw.md, 47_key_wait.md)
  | .rnd x nn => Sys2Proof.Machine.execRnd x nn s
  | .ldBCD x => Sys2Proof.Machine.execLdBCD x s
  | .drw x y n => Sys2Proof.Machine.execDrw x y n s
  | .waitKey x => Sys2Proof.Machine.execWaitKey x s
  -- not executable, and optional (spec/48_invalid.md, spec/42_load_store.md R112)
  | .sys nnn => Sys2Proof.Machine.execSys nnn s
  | .addI x => Sys2Proof.Machine.execAddI x s

end Sys2Proof.Machine
end

