-- ==== Sys2Proof/WellFormed.lean ====
section
/-! DEFINITION. Which instruction terms have an encoding of their own. The types of the operands carry every bound of
R61; what is left is R150: the words 0x00E0 and 0x00EE are CLS and RET, never SYS. -/

namespace Sys2Proof

/-- Whether a term of `Instr` is the instruction of some word: a SYS names neither 0x0E0 nor 0x0EE (R64, R150). -/
def Instr.wf : Instr → Bool
  | .sys nnn => nnn != 0x0E0 && nnn != 0x0EE
  | .cls | .ret | .jp _ | .call _ | .jpV0 _ | .seImm _ _ | .sneImm _ _ | .seReg _ _ | .sneReg _ _ | .skp _ | .sknp _
  | .ldImm _ _ | .ldReg _ _ | .ldI _ | .ldFromDT _ | .ldDT _ | .ldST _ | .ldFont _ | .storeRegs _ | .loadRegs _
  | .addImm _ _ | .addReg _ _ | .sub _ _ | .subn _ _ | .orReg _ _ | .andReg _ _ | .xorReg _ _ | .shr _ _ | .shl _ _
  | .rnd _ _ | .ldBCD _ | .drw _ _ _ | .waitKey _ | .addI _ => true

end Sys2Proof
end

