-- ==== Sys2Proof/Decode.lean ====
section
/-! DEFINITION. The decoder of spec/30_encoding.md R64, total on every word and on every list of bytes, rejecting by
name, and after it the encoder, written from the list of R66. -/

namespace Sys2Proof

/-- Why bytes are not an instruction. The first five are the classes of spec/48_invalid.md R151 but for 0NNN, whose words
decode to `Instr.sys`, which raises InvalidOpcode itself (R150), and for FX1E (notes/assumptions/6.md). -/
inductive DecodeError where
  /-- 5XYN with N not 0. -/
  | skipEqualNibble
  /-- 8XYN with N in 8, 9, A, B, C, D, F. -/
  | arithmeticNibble
  /-- 9XYN with N not 0. -/
  | skipNotEqualNibble
  /-- EXNN with NN neither 9E nor A1. -/
  | keyByte
  /-- FXNN with NN in no row of R66. -/
  | miscByte
  /-- Fewer than the two bytes of an instruction word (R60). -/
  | truncated
  deriving DecidableEq, Repr

/-! ### The fields of a word (R61) -/

/-- `F = op[15:12]`, the family nibble. -/
def fieldF (op : Word) : Nat := (op.extractLsb' 12 4).toNat

/-- `X = op[11:8]`, a register index. -/
def fieldX (op : Word) : RegIx := (op.extractLsb' 8 4).toFin

/-- `Y = op[7:4]`, a register index. -/
def fieldY (op : Word) : RegIx := (op.extractLsb' 4 4).toFin

/-- `N = op[3:0]`, a nibble. -/
def fieldN (op : Word) : Fin 16 := (op.extractLsb' 0 4).toFin

/-- `NN = op[7:0]`, an 8-bit immediate. -/
def fieldNN (op : Word) : Byte := op.extractLsb' 0 8

/-- `NNN = op[11:0]`, a 12-bit address. -/
def fieldNNN (op : Word) : Addr12 := op.extractLsb' 0 12

/-! ### Decoding (R64) -/

/-- Family 0x0: two fixed words, every other word a SYS (R64, R150). -/
def decode0 (op : Word) : Instr :=
  if op = 0x00E0 then .cls
  else if op = 0x00EE then .ret
  else .sys (fieldNNN op)

/-- Family 0x8: nine instructions selected by N (R64). -/
def decode8 (op : Word) : Except DecodeError Instr :=
  match (fieldN op).val with
  | 0x0 => .ok (.ldReg (fieldX op) (fieldY op))
  | 0x1 => .ok (.orReg (fieldX op) (fieldY op))
  | 0x2 => .ok (.andReg (fieldX op) (fieldY op))
  | 0x3 => .ok (.xorReg (fieldX op) (fieldY op))
  | 0x4 => .ok (.addReg (fieldX op) (fieldY op))
  | 0x5 => .ok (.sub (fieldX op) (fieldY op))
  | 0x6 => .ok (.shr (fieldX op) (fieldY op))
  | 0x7 => .ok (.subn (fieldX op) (fieldY op))
  | 0xE => .ok (.shl (fieldX op) (fieldY op))
  | _ => .error .arithmeticNibble

/-- Family 0xE: two instructions selected by NN (R64). -/
def decodeE (op : Word) : Except DecodeError Instr :=
  match (fieldNN op).toNat with
  | 0x9E => .ok (.skp (fieldX op))
  | 0xA1 => .ok (.sknp (fieldX op))
  | _ => .error .keyByte

/-- Family 0xF: the instructions selected by NN (R64). FX1E always decodes to `addI`, whose meaning raises InvalidOpcode
unless `ENABLE_FX1E` (R112; notes/assumptions/6.md). -/
def decodeF (op : Word) : Except DecodeError Instr :=
  match (fieldNN op).toNat with
  | 0x07 => .ok (.ldFromDT (fieldX op))
  | 0x0A => .ok (.waitKey (fieldX op))
  | 0x15 => .ok (.ldDT (fieldX op))
  | 0x18 => .ok (.ldST (fieldX op))
  | 0x1E => .ok (.addI (fieldX op))
  | 0x29 => .ok (.ldFont (fieldX op))
  | 0x33 => .ok (.ldBCD (fieldX op))
  | 0x55 => .ok (.storeRegs (fieldX op))
  | 0x65 => .ok (.loadRegs (fieldX op))
  | _ => .error .miscByte

/-- The decoder of R64: the family nibble first, then the sub-nibble or the low byte; every literal must match. The last
arm is the family 0xF, the only value of four bits the others leave. -/
def decode (op : Word) : Except DecodeError Instr :=
  match fieldF op with
  | 0x0 => .ok (decode0 op)
  | 0x1 => .ok (.jp (fieldNNN op))
  | 0x2 => .ok (.call (fieldNNN op))
  | 0x3 => .ok (.seImm (fieldX op) (fieldNN op))
  | 0x4 => .ok (.sneImm (fieldX op) (fieldNN op))
  | 0x5 => if fieldN op = 0 then .ok (.seReg (fieldX op) (fieldY op)) else .error .skipEqualNibble
  | 0x6 => .ok (.ldImm (fieldX op) (fieldNN op))
  | 0x7 => .ok (.addImm (fieldX op) (fieldNN op))
  | 0x8 => decode8 op
  | 0x9 => if fieldN op = 0 then .ok (.sneReg (fieldX op) (fieldY op)) else .error .skipNotEqualNibble
  | 0xA => .ok (.ldI (fieldNNN op))
  | 0xB => .ok (.jpV0 (fieldNNN op))
  | 0xC => .ok (.rnd (fieldX op) (fieldNN op))
  | 0xD => .ok (.drw (fieldX op) (fieldY op) (fieldN op))
  | 0xE => decodeE op
  | _ => decodeF op

/-- The word of two bytes in memory order: the byte at the lower address is the high byte (R47, R49). -/
def wordOfBytes (hi lo : Byte) : Word := hi ++ lo

/-- Decode the instruction at the head of a list of bytes, with the bytes that follow it (R60: one length, two bytes). -/
def decodeBytes : List Byte → Except DecodeError (Instr × List Byte)
  | hi :: lo :: rest =>
    match decode (wordOfBytes hi lo) with
    | .ok i => .ok (i, rest)
    | .error e => .error e
  | [_] => .error .truncated
  | [] => .error .truncated

/-! ### Encoding (R62, R66) -/

/-- Format NNN: the family nibble and a 12-bit address. -/
def encodeNNN (f : Nat) (nnn : Addr12) : Word :=
  BitVec.ofNat 16 (f * 0x1000 + nnn.toNat)

/-- Formats XNN and X: the family nibble, a register, and the low byte (an immediate, or the sub-opcode). -/
def encodeXNN (f : Nat) (x : RegIx) (nn : Byte) : Word :=
  BitVec.ofNat 16 (f * 0x1000 + x.val * 0x100 + nn.toNat)

/-- Formats XY and XYN: the family nibble, two registers, and the low nibble (the sub-opcode, or N). -/
def encodeXYN (f : Nat) (x y : RegIx) (n : Fin 16) : Word :=
  BitVec.ofNat 16 (f * 0x1000 + x.val * 0x100 + y.val * 0x10 + n.val)

/-- The word of an instruction, by the patterns of R66. -/
def encode : Instr → Word
  | .cls => 0x00E0
  | .ret => 0x00EE
  | .jp nnn => encodeNNN 0x1 nnn
  | .call nnn => encodeNNN 0x2 nnn
  | .jpV0 nnn => encodeNNN 0xB nnn
  | .seImm x nn => encodeXNN 0x3 x nn
  | .sneImm x nn => encodeXNN 0x4 x nn
  | .seReg x y => encodeXYN 0x5 x y 0x0
  | .sneReg x y => encodeXYN 0x9 x y 0x0
  | .skp x => encodeXNN 0xE x 0x9E
  | .sknp x => encodeXNN 0xE x 0xA1
  | .ldImm x nn => encodeXNN 0x6 x nn
  | .ldReg x y => encodeXYN 0x8 x y 0x0
  | .ldI nnn => encodeNNN 0xA nnn
  | .ldFromDT x => encodeXNN 0xF x 0x07
  | .ldDT x => encodeXNN 0xF x 0x15
  | .ldST x => encodeXNN 0xF x 0x18
  | .ldFont x => encodeXNN 0xF x 0x29
  | .storeRegs x => encodeXNN 0xF x 0x55
  | .loadRegs x => encodeXNN 0xF x 0x65
  | .addImm x nn => encodeXNN 0x7 x nn
  | .addReg x y => encodeXYN 0x8 x y 0x4
  | .sub x y => encodeXYN 0x8 x y 0x5
  | .subn x y => encodeXYN 0x8 x y 0x7
  | .orReg x y => encodeXYN 0x8 x y 0x1
  | .andReg x y => encodeXYN 0x8 x y 0x2
  | .xorReg x y => encodeXYN 0x8 x y 0x3
  | .shr x y => encodeXYN 0x8 x y 0x6
  | .shl x y => encodeXYN 0x8 x y 0xE
  | .rnd x nn => encodeXNN 0xC x nn
  | .ldBCD x => encodeXNN 0xF x 0x33
  | .drw x y n => encodeXYN 0xD x y n
  | .waitKey x => encodeXNN 0xF x 0x0A
  | .sys nnn => encodeNNN 0x0 nnn
  | .addI x => encodeXNN 0xF x 0x1E

/-- The high byte of a word, the one at the lower address (R49). -/
def highByte (op : Word) : Byte := op.extractLsb' 8 8

/-- The low byte of a word, the one at the higher address (R49). -/
def lowByte (op : Word) : Byte := op.extractLsb' 0 8

/-- The two bytes of an instruction in memory order (R49, R60). -/
def encodeBytes (i : Instr) : List Byte := [highByte (encode i), lowByte (encode i)]

/-- The column `match / mask` of R66: a word `op` selects the row with `op & mask = match`. -/
def Instr.matchMask : Instr → Word × Word
  | .cls => (0x00E0, 0xFFFF)
  | .ret => (0x00EE, 0xFFFF)
  | .jp _ => (0x1000, 0xF000)
  | .call _ => (0x2000, 0xF000)
  | .jpV0 _ => (0xB000, 0xF000)
  | .seImm _ _ => (0x3000, 0xF000)
  | .sneImm _ _ => (0x4000, 0xF000)
  | .seReg _ _ => (0x5000, 0xF00F)
  | .sneReg _ _ => (0x9000, 0xF00F)
  | .skp _ => (0xE09E, 0xF0FF)
  | .sknp _ => (0xE0A1, 0xF0FF)
  | .ldImm _ _ => (0x6000, 0xF000)
  | .ldReg _ _ => (0x8000, 0xF00F)
  | .ldI _ => (0xA000, 0xF000)
  | .ldFromDT _ => (0xF007, 0xF0FF)
  | .ldDT _ => (0xF015, 0xF0FF)
  | .ldST _ => (0xF018, 0xF0FF)
  | .ldFont _ => (0xF029, 0xF0FF)
  | .storeRegs _ => (0xF055, 0xF0FF)
  | .loadRegs _ => (0xF065, 0xF0FF)
  | .addImm _ _ => (0x7000, 0xF000)
  | .addReg _ _ => (0x8004, 0xF00F)
  | .sub _ _ => (0x8005, 0xF00F)
  | .subn _ _ => (0x8007, 0xF00F)
  | .orReg _ _ => (0x8001, 0xF00F)
  | .andReg _ _ => (0x8002, 0xF00F)
  | .xorReg _ _ => (0x8003, 0xF00F)
  | .shr _ _ => (0x8006, 0xF00F)
  | .shl _ _ => (0x800E, 0xF00F)
  | .rnd _ _ => (0xC000, 0xF000)
  | .ldBCD _ => (0xF033, 0xF0FF)
  | .drw _ _ _ => (0xD000, 0xF000)
  | .waitKey _ => (0xF00A, 0xF0FF)
  | .sys _ => (0x0000, 0xF000)
  | .addI _ => (0xF01E, 0xF0FF)

/-- The host's view of the decoder: the instruction read from a word `w` of which the opcode table gives `nbits` bits,
every bit above them 0, laid out as the hardware stores it (the high byte first, R49). -/
def decodeTableWord (nbits w : Nat) : Option Instr :=
  let op : Word := BitVec.ofNat 16 (w % 2 ^ nbits)
  match decodeBytes [highByte op, lowByte op] with
  | .ok (i, _) => some i
  | .error _ => none

end Sys2Proof
end

