-- ==== Sys2Proof/Machine/Fetch.lean ====
section
/-! DEFINITION. Fetching and decoding the instruction at PC (spec/20_memory.md R47, spec/30_encoding.md R64), and putting
one there. -/

namespace Sys2Proof.Machine

/-- The word at PC, big-endian, whatever the parity of PC (R47, R49, R50); not checked against the bound. -/
def State.wordAtPC (s : State) : Word :=
  wordOfBytes (s.readByte s.pc.toNat) (s.readByte (s.pc.toNat + 1))

/-- Whether both bytes of the instruction word are in memory: PC + 1 ≤ 0xFFF (R47). -/
def State.canFetch (s : State) : Bool := inMemory (s.pc.toNat + 1)

/-- Fetch and decode, with the fault each raises, the fetch's first (R47, R64, R162). -/
def fetchInstr (s : State) : Except Fault Instr :=
  if s.canFetch then
    match decode s.wordAtPC with
    | .ok i => .ok i
    | .error _ => .error .invalidOpcode
  else .error .memoryFault

/-- `s` with the word `op` where the next step fetches, and nothing in the way of that fetch: no latched fault, no
key wait, and a PC both of whose bytes are in memory (0x200 if it was not). -/
def placeWord (s : State) (op : Word) : State :=
  let t : State := { s with fault := none, wait := false, pc := if s.canFetch then s.pc else 0x200 }
  t.writeBytes t.pc.toNat [highByte op, lowByte op]

end Sys2Proof.Machine
end

