-- ==== Sys2Proof/Machine/Step.lean ====
section
/-! DEFINITION. The step cycle of spec/30_encoding.md R67. -/

namespace Sys2Proof.Machine

/-- `step` (R67). On a Halted machine it answers the latched fault, and no state (R163); while the machine awaits a key it
changes nothing (R146); a fetch or decode that faults takes the fault entry; otherwise the decoded instruction executes.
Each meaning writes PC itself, the default advance included (R68).

DESIGN CHOICE (notes/assumptions/12.md): of the three ends of a run in R195, of which a model must pick what it observes,
the one at which this step has no next state is (b), the Halted machine; a jump to itself steps on. Safe. -/
def step (s : State) : Host.Outcome State Fault Refusal :=
  match s.fault with
  | some k => .fault k
  | none =>
    if s.wait then .next s
    else
      match fetchInstr s with
      | .ok i => exec i s
      | .error k => takeFault k s

/-- The state `s` with one instruction placed where `step` fetches next: a word `w` of which the opcode table gives
`nbits` bits (at most the 16 an instruction has, R60), every bit above them 0. It stands for the host's `load`, which is
how a program comes into memory (R190; notes/assumptions/7.md). -/
def State.withFetchWord (s : State) (nbits w : Nat) : State :=
  placeWord s (BitVec.ofNat 16 (w % 2 ^ nbits))

end Sys2Proof.Machine
end

