-- ==== Sys2Proof/Machine/HostOps.lean ====
section
/-! DEFINITION. The host's side of the interface of spec/60_exceptions.md R176: what `step` returns, `load`,
`tick_timers`, `key_press`, `key_release`, `read_display`, the sound line, and the machine's history as any sequence of
these operations (R167, R203). The snapshot of R179 is the State itself. -/

namespace Sys2Proof.Machine

/-! ### What a step returns (R69, R177): an output, not state (R27) -/

/-- The outcome of a step that does not fault (R69). -/
inductive StepOutcome where
  | advanced
  | redraw
  | awaitingKey
  deriving DecidableEq, Repr

/-- What `step` returns to the host: Ok(outcome) or Fault(kind) (R177). -/
inductive StepResult where
  | ok (o : StepOutcome)
  | fault (k : Fault)
  deriving DecidableEq, Repr

/-- The outcome each instruction's rule gives: `Redraw` for 00E0 and DXYN, `AwaitingKey` for FX0A, `Advanced` for every
other (R69). -/
def outcomeOf : Instr → StepOutcome
  | .cls => .redraw
  | .drw _ _ _ => .redraw
  | .waitKey _ => .awaitingKey
  | .ret | .jp _ | .call _ | .jpV0 _ | .seImm _ _ | .sneImm _ _ | .seReg _ _ | .sneReg _ _ | .skp _ | .sknp _
  | .ldImm _ _ | .ldReg _ _ | .ldI _ | .ldFromDT _ | .ldDT _ | .ldST _ | .ldFont _ | .storeRegs _ | .loadRegs _
  | .addImm _ _ | .addReg _ _ | .sub _ _ | .subn _ _ | .orReg _ _ | .andReg _ _ | .xorReg _ _ | .shr _ _ | .shl _ _
  | .rnd _ _ | .ldBCD _ | .sys _ | .addI _ => .advanced

/-- What the step on `s` returns (R67): the latched fault on a Halted machine, `AwaitingKey` during a key wait, the fault
the step raises, or the outcome of the instruction executed. None only where the model gives an instruction no
meaning, which it does for none. -/
def stepResult (s : State) : Option StepResult :=
  match s.fault with
  | some k => some (.fault k)
  | none =>
    if s.wait then some (.ok .awaitingKey)
    else
      match fetchInstr s with
      | .error k => some (.fault k)
      | .ok i =>
        match exec i s with
        | .next t =>
          match t.fault with
          | some k => some (.fault k)
          | none => some (.ok (outcomeOf i))
        | .fault _ => none
        | .refused _ => none

/-- The numeric codes of R160 for what FAULT holds; `ProgramTooLarge`, code 5, is never latched. -/
def faultCode : Option Fault → Nat
  | none => 0
  | some .invalidOpcode => 1
  | some .memoryFault => 2
  | some .stackOverflow => 3
  | some .stackUnderflow => 4

/-! ### Loading a program, the only reset (R190, R192, R193) -/

/-- What `load` returns. -/
inductive LoadResult where
  | ok
  | programTooLarge
  deriving DecidableEq, Repr

/-- Where a program is loaded and starts (R3). -/
def loadAddress : Nat := 0x200

/-- The largest program image, 4096 - 0x200 bytes (R3). -/
def maxImage : Nat := memSize - loadAddress

/-- `load(image)` (R190): every piece of state takes its reset value, the image stands at 0x200, PROG_LEN is its length;
an image of more than 3584 bytes is rejected and changes nothing (R193). The parameters and the position in the random
input are no state of the spec's and stay (R27, R131). -/
def load (image : List Byte) (s : State) : LoadResult × State :=
  if image.length > maxImage then (.programTooLarge, s)
  else
    let cleared : State :=
      { State.reset with progLen := BitVec.ofNat 12 image.length, cfg := s.cfg, rngPos := s.rngPos }
    (.ok, cleared.writeBytes loadAddress image)

/-! ### Timers (R171, R172) -/

/-- One tick of a countdown counter, floored at 0 (R171). -/
def countDown (b : Byte) : Byte := if b.toNat > 0 then BitVec.ofNat 8 (b.toNat - 1) else b

/-- `tick_timers` (R171): both timers in one atomic tick, in every sub-state. -/
def tickTimers (s : State) : State := { s with dt := countDown s.dt, st := countDown s.st }

/-- The output line `sound_active`: ST is not 0 (R19, R172). -/
def State.soundActive (s : State) : Bool := s.st ≠ 0

/-! ### Keys (R147, R173 to R175) -/

/-- `key_press(k)` for 0 ≤ k ≤ 15 (R173): a released-to-pressed transition during a key wait completes the FX0A (R147);
otherwise only the key is set. -/
def pressKey (k : Fin 16) (s : State) : State :=
  if s.wait ∧ s.key[k.val] = false then
    { (s.setReg s.wreg (BitVec.ofNat 8 k.val)).advance with key := s.key.set k.val true, wait := false }
  else { s with key := s.key.set k.val true }

/-- `key_press(k)` for any code: one above 15 is ignored (R175). -/
def keyPress (k : Nat) (s : State) : State := if h : k < 16 then pressKey ⟨k, h⟩ s else s

/-- `key_release(k)` for any code (R174): KEY[k] <- 0; one above 15 is ignored (R175). -/
def keyRelease (k : Nat) (s : State) : State := if h : k < 16 then { s with key := s.key.set k false } else s

/-! ### Reading the display (R178) -/

/-- `read_display()`: the grid and DIRTY, and the state with DIRTY cleared. -/
def readDisplay (s : State) : (Display × Bool) × State := ((s.display, s.dirty), { s with dirty := false })

/-! ### Histories (R167, R203) -/

/-- The operations that change the state, each atomic (R176). -/
inductive HostOp where
  | step
  | tickTimers
  | keyPress (k : Nat)
  | keyRelease (k : Nat)
  | readDisplay
  | load (image : List Byte)
  deriving DecidableEq, Repr

/-- The state an operation leaves. A step on a Halted machine leaves it as it is (R163). -/
def HostOp.apply (o : HostOp) (s : State) : State :=
  match o with
  | .step =>
    match Machine.step s with
    | .next t => t
    | .fault _ => s
    | .refused _ => s
  | .tickTimers => Machine.tickTimers s
  | .keyPress k => Machine.keyPress k s
  | .keyRelease k => Machine.keyRelease k s
  | .readDisplay => (Machine.readDisplay s).2
  | .load image => (Machine.load image s).2

/-- A history: operations one after another, in any order the host picks (R167, R203). -/
def runOps : List HostOp → State → State
  | [], s => s
  | o :: os, s => runOps os (o.apply s)

end Sys2Proof.Machine
end

