-- ==== Sys2Proof/Safety.lean ====
section
/-! DEFINITION. The terms claims are made in: the machine-wide invariant, what leaves state unchanged, which words are
invalid, and the pixels of a sprite as a formula. -/

namespace Sys2Proof.Machine

/-! ### The sub-states (R149, R183) -/

/-- Not Halted and not awaiting a key: a step executes an instruction. -/
abbrev State.Running (s : State) : Prop := s.fault = none ∧ s.wait = false

/-! ### Well-formed memory -/

/-- The memory of a state has its canonical form. -/
abbrev State.MemWf (s : State) : Prop := Memory.wf s.cfg s.mem

/-! ### The invariant of every reachable state -/

/-- The live stack entries hold values a CALL can push: 0x002 to 0x1000 (R21). -/
abbrev State.StackOk (s : State) : Prop :=
  ∀ k : Fin 16, k.val < s.sp.val → 2 ≤ (s.stack[k.val]).toNat ∧ (s.stack[k.val]).toNat ≤ 0x1000

/-- PC is at most 0x10FE (R14), and while a key is awaited it is the address of a fetched instruction (R14, R145). -/
abbrev State.PcOk (s : State) : Prop :=
  s.pc.toNat ≤ 0x10FE ∧ (s.wait = true → s.pc.toNat ≤ 0xFFE)

/-- Without FX1E, I is at most 0xFFF (R17). -/
abbrev State.IndexOk (s : State) : Prop := s.cfg.enableFX1E = false → s.i.toNat ≤ 0xFFF

/-- The machine cannot await a key and be Halted at once (R149). -/
abbrev State.SubStateOk (s : State) : Prop := ¬ (s.wait = true ∧ s.fault ≠ none)

/-- PROG_LEN is at most 3584 (R29). -/
abbrev State.ProgLenOk (s : State) : Prop := s.progLen.toNat ≤ maxImage

/-- What holds of every state a history reaches. -/
structure State.Inv (s : State) : Prop where
  mem : s.MemWf
  pc : s.PcOk
  stack : s.StackOk
  index : s.IndexOk
  subState : s.SubStateOk
  progLen : s.ProgLenOk

/-! ### Frames: what an operation leaves unchanged -/

/-- The pieces of state a frame speaks of, one by one. -/
inductive Part where
  | regs
  | index
  | pc
  | stack
  | delay
  | sound
  | display
  | dirty
  | keys
  | memory
  | progLen
  | waiting
  | fault
  | config
  | random
  deriving DecidableEq, Repr

/-- Two states agree on a part: on every register, every byte a read of memory gives, and so on. -/
def Part.same : Part → State → State → Prop
  | .regs, s, t => ∀ r : RegIx, t.reg r = s.reg r
  | .index, s, t => t.i = s.i
  | .pc, s, t => t.pc = s.pc
  | .stack, s, t => t.sp = s.sp ∧ t.stack = s.stack
  | .delay, s, t => t.dt = s.dt
  | .sound, s, t => t.st = s.st
  | .display, s, t => ∀ (x : Fin 64) (y : Fin 32), Display.pixel t.display x y = Display.pixel s.display x y
  | .dirty, s, t => t.dirty = s.dirty
  | .keys, s, t => t.key = s.key
  | .memory, s, t => ∀ a : Nat, t.readByte a = s.readByte a
  | .progLen, s, t => t.progLen = s.progLen
  | .waiting, s, t => t.wait = s.wait ∧ t.wreg = s.wreg
  | .fault, s, t => t.fault = s.fault
  | .config, s, t => t.cfg = s.cfg
  | .random, s, t => t.rngPos = s.rngPos

/-- Everything but the parts named is the same in `t` as in `s`. -/
def SameBut (changed : List Part) (s t : State) : Prop := ∀ p : Part, p ∉ changed → p.same s t

/-- Every register but those in the list is the same in `t` as in `s`. -/
def RegsSameBut (changed : List RegIx) (s t : State) : Prop := ∀ r : RegIx, r ∉ changed → t.reg r = s.reg r

/-! ### Invalid words (R151) -/

/-- The classes of the table of R151, by the nibbles of the word. -/
def InvalidWord (c : Config) (op : Word) : Prop :=
  let f := op.toNat / 0x1000
  let n := op.toNat % 0x10
  let nn := op.toNat % 0x100
  let nnn := op.toNat % 0x1000
  (f = 0x0 ∧ nnn ≠ 0x0E0 ∧ nnn ≠ 0x0EE) ∨
  (f = 0x5 ∧ n ≠ 0) ∨
  (f = 0x8 ∧ n ∈ [0x8, 0x9, 0xA, 0xB, 0xC, 0xD, 0xF]) ∨
  (f = 0x9 ∧ n ≠ 0) ∨
  (f = 0xE ∧ nn ∉ [0x9E, 0xA1]) ∨
  (f = 0xF ∧ nn ∉ [0x07, 0x0A, 0x15, 0x18, 0x29, 0x33, 0x55, 0x65] ∧ ¬ (c.enableFX1E = true ∧ nn = 0x1E))

/-! ### The pixels of a sprite (R135 to R137) -/

/-- The sprite of `n` rows at I, drawn at (V[x], V[y]), has a 1 bit for the pixel (px, py): sprite row `r` and column `c`
land on column (VX + c) mod 64 and row (VY + r) mod 32 (R137), and bit 7 of a row's byte is its leftmost pixel (R136). -/
def SpriteCovers (s : State) (x y : RegIx) (n : Fin 16) (px : Fin 64) (py : Fin 32) : Prop :=
  ∃ r c : Nat, r < n.val ∧ c < 8 ∧ px.val = ((s.reg x).toNat + c) % 64 ∧ py.val = ((s.reg y).toNat + r) % 32 ∧
    (s.readByte (s.i.toNat + r)).getLsbD (7 - c) = true

/-! ### What each instruction may write (the access table of R10; R11, R17 to R25) -/

/-- The parts of the state an instruction may change when it completes: PC and those its rule names. -/
def mayWrite : Instr → List Part
  | .cls => [.display, .dirty, .pc]
  | .ret => [.stack, .pc]
  | .jp _ => [.pc]
  | .call _ => [.stack, .pc]
  | .jpV0 _ => [.pc]
  | .seImm _ _ => [.pc]
  | .sneImm _ _ => [.pc]
  | .seReg _ _ => [.pc]
  | .sneReg _ _ => [.pc]
  | .skp _ => [.pc]
  | .sknp _ => [.pc]
  | .ldImm _ _ => [.regs, .pc]
  | .ldReg _ _ => [.regs, .pc]
  | .ldI _ => [.index, .pc]
  | .ldFromDT _ => [.regs, .pc]
  | .ldDT _ => [.delay, .pc]
  | .ldST _ => [.sound, .pc]
  | .ldFont _ => [.index, .pc]
  | .storeRegs _ => [.memory, .pc]
  | .loadRegs _ => [.regs, .pc]
  | .addImm _ _ => [.regs, .pc]
  | .addReg _ _ => [.regs, .pc]
  | .sub _ _ => [.regs, .pc]
  | .subn _ _ => [.regs, .pc]
  | .orReg _ _ => [.regs, .pc]
  | .andReg _ _ => [.regs, .pc]
  | .xorReg _ _ => [.regs, .pc]
  | .shr _ _ => [.regs, .pc]
  | .shl _ _ => [.regs, .pc]
  | .rnd _ _ => [.regs, .random, .pc]
  | .ldBCD _ => [.memory, .pc]
  | .drw _ _ _ => [.regs, .display, .dirty, .pc]
  | .waitKey _ => [.waiting]
  | .sys _ => []
  | .addI _ => [.index, .pc]

/-- Whether an instruction may write the register `r`: VX, V0 to VX for FX65, and VF where it is a flag (R10, R11). -/
def writesReg (c : Config) (r : RegIx) : Instr → Prop
  | .cls | .ret | .jp _ | .call _ | .jpV0 _ | .seImm _ _ | .sneImm _ _ | .seReg _ _ | .sneReg _ _ | .skp _ | .sknp _
  | .ldI _ | .ldDT _ | .ldST _ | .ldFont _ | .storeRegs _ | .ldBCD _ | .waitKey _ | .sys _ | .addI _ => False
  | .ldImm x _ | .ldReg x _ | .ldFromDT x | .addImm x _ | .rnd x _ => r = x
  | .addReg x _ | .sub x _ | .subn x _ | .shr x _ | .shl x _ => r = x ∨ r = 15
  | .orReg x _ | .andReg x _ | .xorReg x _ => r = x ∨ (c.logicResetsVF = true ∧ r = 15)
  | .loadRegs x => r ≤ x
  | .drw _ _ _ => r = 15

/-! ### Memory after a load (R30) -/

/-- What `load` leaves at an address: the image byte that lands there, else the font byte, else 0. -/
def loadedByte (c : Config) (image : List Byte) (a : Nat) : Byte :=
  match if loadAddress ≤ a then image[a - loadAddress]? else none with
  | some b => b
  | none => if h : c.fontBase.val ≤ a ∧ a < c.fontBase.val + 80 then c.fontData[a - c.fontBase.val] else 0

end Sys2Proof.Machine
end

