-- ==== Sys2Proof/Certificates/Slice0/Obligations.lean ====
section
/-! DEFINITION. The statements for the provers. Each says what a rule of the spec says an instruction or the machine does;
where a statement rests on one of the spec's own decisions (92_eei_decisions.md) or on general knowledge the spec marks
as such, its docstring names the decision, and its basis is 'derived'. -/

open Sys2Proof Sys2Proof.Machine

/-! ### Encoding and decoding -/

/-- Every well-formed instruction is read back from its two bytes, with every operand at every value, whatever bytes
follow (R60, R61, R66). -/
def Obligations.DecodeInvertsEncode : Prop :=
  ∀ (i : Instr) (rest : List Byte), i.wf = true → decodeBytes (encodeBytes i ++ rest) = .ok (i, rest)

/-- Each word has one meaning: the instruction decoded from a word is well-formed and encodes to that word (R64, R66). -/
def Obligations.EncodeInvertsDecode : Prop :=
  ∀ (op : Word) (i : Instr), decode op = .ok i → i.wf = true ∧ encode i = op

/-- A decoded word selects its instruction's row of R66 by `op & mask = match`, and no other row, except that 00E0 and
00EE, which also match 0NNN, take precedence over it. -/
def Obligations.DecodedWordSelectsOneRow : Prop :=
  ∀ (op : Word) (i : Instr), decode op = .ok i →
    op &&& i.matchMask.2 = i.matchMask.1 ∧
    ∀ j : Instr, op &&& j.matchMask.2 = j.matchMask.1 →
      j.matchMask = i.matchMask ∨ ((i = .cls ∨ i = .ret) ∧ j.matchMask = (0x0000, 0xF000))

/-- A word of each family, read from the patterns of R66, and the source's own scenario 0xA2 0x2A. -/
def Obligations.PatternWordsDecode : Prop :=
  decode 0x00E0 = .ok .cls ∧ decode 0x00EE = .ok .ret ∧ decode 0xB234 = .ok (.jpV0 0x234) ∧
  decode 0x3A2B = .ok (.seImm 0xA 0x2B) ∧ decode 0xEAA1 = .ok (.sknp 0xA) ∧
  decodeBytes [0xA2, 0x2A] = .ok (.ldI 0x22A, []) ∧ decode 0xFA65 = .ok (.loadRegs 0xA) ∧
  decode 0x8A57 = .ok (.subn 0xA 0x5) ∧ decode 0x8A5E = .ok (.shl 0xA 0x5) ∧ decode 0xCA2B = .ok (.rnd 0xA 0x2B) ∧
  decode 0xFA33 = .ok (.ldBCD 0xA) ∧ decode 0xDA53 = .ok (.drw 0xA 0x5 0x3) ∧ decode 0xFA0A = .ok (.waitKey 0xA) ∧
  decode 0x0123 = .ok (.sys 0x123) ∧ decode 0xFA1E = .ok (.addI 0xA)

/-- A running machine raises InvalidOpcode exactly on the words of the table of R151, and then nothing but FAULT changes.
The literal-match reading of the patterns is decision D9, the fault latch decision D19. -/
def Obligations.InvalidWordsExactlyRaiseInvalidOpcode : Prop :=
  ∀ s : State, s.Running → s.pc.toNat < 0xFFF →
    (InvalidWord s.cfg s.wordAtPC → step s = .next { s with fault := some .invalidOpcode }) ∧
    (¬ InvalidWord s.cfg s.wordAtPC → ∀ t, step s = .next t → t.fault ≠ some .invalidOpcode)

/-! ### The step cycle -/

/-- A step of a running machine whose bytes at PC decode is the execution of that instruction, and nothing around it:
the default advance of PC is in each meaning (R67). -/
def Obligations.StepExecutesDecodedInstruction : Prop :=
  ∀ (s : State) (i : Instr), s.Running → s.pc.toNat < 0xFFF → decode s.wordAtPC = .ok i → step s = exec i s

/-- Instruction fetch: with PC at 0xFFF or above the step raises MemoryFault and changes nothing else; below it the word
executed is `MEM[PC] × 256 + MEM[PC+1]` (R47), and a word that does not decode raises InvalidOpcode (R64). That PC may
be odd (R50) is the spec's decision D7 (notes/assumptions/8.md), and the fault latch decision D19. -/
def Obligations.FetchReadsTwoBytesBigEndianOrFaults : Prop :=
  (∀ s : State, s.Running → 0xFFF ≤ s.pc.toNat → step s = .next { s with fault := some .memoryFault }) ∧
  (∀ (s : State) (op : Word), s.Running → s.pc.toNat < 0xFFF →
    op.toNat = (s.readByte s.pc.toNat).toNat * 256 + (s.readByte (s.pc.toNat + 1)).toNat →
    (∀ i, decode op = .ok i → step s = exec i s) ∧
    (∀ e, decode op = .error e → step s = .next { s with fault := some .invalidOpcode }))

/-- A Halted machine: a step answers the latched fault and leaves the state as it is (R163; the latch is decision D19, and
that the model answers with the outcome 'fault' is notes/assumptions/1.md). -/
def Obligations.HaltedStepReturnsLatchedFault : Prop :=
  ∀ (s : State) (k : Fault), s.fault = some k →
    step s = .fault k ∧ stepResult s = some (.fault k) ∧ HostOp.step.apply s = s

/-- A step while a key is awaited changes nothing and returns `AwaitingKey` (R146, decision D11). -/
def Obligations.WaitingStepChangesNothing : Prop :=
  ∀ s : State, s.fault = none → s.wait = true → step s = .next s ∧ stepResult s = some (.ok .awaitingKey)

/-- A machine that is not Halted always has a next state: no step is refused, and a fault is taken, not stopped at
(R67, R163). -/
def Obligations.UnhaltedStepHasNextState : Prop :=
  ∀ s : State, s.fault = none → ∃ t, step s = .next t

/-- Faults are precise: when a step raises a fault, the state differs from the one before it in FAULT alone (R164). -/
def Obligations.FaultsArePrecise : Prop :=
  ∀ (s t : State) (k : Fault), s.fault = none → step s = .next t → t.fault = some k → t = { s with fault := some k }

/-- Which instruction can raise what at `exec`, and when: the execute-stage faults and their causes are those of R160 and
R161. That SYS, and ADD I, VX while it is disabled, raise InvalidOpcode in `exec` is the model's choice
(notes/assumptions/6.md): R151 and R161 raise it at decode. -/
def Obligations.ExecuteFaultsHaveTheListedCauses : Prop :=
  ∀ (i : Instr) (s t : State) (k : Fault), s.fault = none → exec i s = .next t → t.fault = some k →
    (k = .stackOverflow ∧ (∃ nnn, i = .call nnn) ∧ s.sp.val = 16) ∨
    (k = .stackUnderflow ∧ i = .ret ∧ s.sp.val = 0) ∨
    (k = .memoryFault ∧
      ((∃ x : RegIx, (i = .storeRegs x ∨ i = .loadRegs x) ∧ s.i.toNat + x.val > 0xFFF) ∨
       ((∃ x, i = .ldBCD x) ∧ s.i.toNat + 2 > 0xFFF) ∨
       (∃ x y n, i = .drw x y n ∧ n.val ≥ 1 ∧ s.i.toNat + n.val - 1 > 0xFFF))) ∨
    (k = .invalidOpcode ∧ ((∃ nnn, i = .sys nnn) ∨ ((∃ x, i = .addI x) ∧ s.cfg.enableFX1E = false)))

/-- What a step of a running machine returns: the fault it raises, if it raises one; otherwise `Redraw` for 00E0 and DXYN,
`AwaitingKey` for FX0A, `Advanced` for every other instruction (R69, R177; decisions D13, D14, D27). -/
def Obligations.StepResultByInstruction : Prop :=
  (∀ (s t : State) (k : Fault), s.Running → step s = .next t → t.fault = some k → stepResult s = some (.fault k)) ∧
  (∀ (s t : State) (i : Instr), s.Running → fetchInstr s = .ok i → step s = .next t → t.fault = none →
    ((i = .cls ∨ ∃ x y n, i = .drw x y n) → stepResult s = some (.ok .redraw)) ∧
    ((∃ x, i = .waitKey x) → stepResult s = some (.ok .awaitingKey)) ∧
    (i ≠ .cls → (∀ x y n, i ≠ .drw x y n) → (∀ x, i ≠ .waitKey x) → stepResult s = some (.ok .advanced)))

/-- How PC moves when no fault is raised (R68): by 4 or 2 at a skip, not at all at FX0A, by exactly 2 at every other
instruction that is no jump, call or return; and not at all at a fault. -/
def Obligations.ProgramCounterAdvance : Prop :=
  ∀ (i : Instr) (s t : State), s.fault = none → exec i s = .next t →
    (t.fault ≠ none → t.pc = s.pc) ∧
    (t.fault = none →
      match i with
      | .jp _ | .call _ | .jpV0 _ | .ret => True
      | .seImm _ _ | .sneImm _ _ | .seReg _ _ | .sneReg _ _ | .skp _ | .sknp _ => t.pc = s.pc + 4 ∨ t.pc = s.pc + 2
      | .waitKey _ => t.pc = s.pc
      | _ => t.pc = s.pc + 2)

/-! ### Frames of every instruction -/

/-- When an instruction completes, every part of the state is unchanged but the parts its rule lets it write: memory only
by FX33 and FX55, the stack only by 2NNN and 00EE, the display and DIRTY only by 00E0 and DXYN, I only by ANNN, FX29 and
FX1E, DT only by FX15, ST only by FX18, the wait only by FX0A, the keys and PROG_LEN by none (R17 to R25, R29, R45, R46).
`mayWrite` is that table. -/
def Obligations.InstructionsChangeOnlyTheirParts : Prop :=
  ∀ (i : Instr) (s t : State), exec i s = .next t → t.fault = s.fault → SameBut (mayWrite i) s t

/-- When an instruction completes, every register is unchanged but VX where the access table of R10 says so, V0 to VX for
FX65, and VF where the instruction writes it as a flag (R10, R11). `writesReg` is that table. -/
def Obligations.InstructionsChangeOnlyTheirRegisters : Prop :=
  ∀ (i : Instr) (s t : State) (r : RegIx), exec i s = .next t → ¬ writesReg s.cfg r i → t.reg r = s.reg r

/-! ### Control flow -/

/-- 00E0 clears the display (R80); that it always sets DIRTY is decisions D14 and D15. -/
def Obligations.ClearDisplay : Prop :=
  ∀ s : State, ∃ t, exec .cls s = .next t ∧
    (∀ x y, Display.pixel t.display x y = false) ∧ t.dirty = true ∧ t.pc = s.pc + 2 ∧
    SameBut [.display, .dirty, .pc] s t

/-- 1NNN sets PC to NNN, whatever NNN is, and changes nothing else; to 0xFFF, the next step raises MemoryFault; its word
and its outcome (R81). -/
def Obligations.JumpSetsProgramCounter : Prop :=
  ∀ nnn : Addr12, (encode (.jp nnn)).toNat = 0x1000 + nnn.toNat ∧ outcomeOf (.jp nnn) = .advanced ∧
    ∀ s : State, ∃ t, exec (.jp nnn) s = .next t ∧ t.pc.toNat = nnn.toNat ∧ SameBut [.pc] s t ∧
      (nnn = 0xFFF → s.Running → step t = .next { t with fault := some .memoryFault })

/-- BNNN sets PC to NNN + V0, not reduced (R84, decision D8). -/
def Obligations.JumpWithOffset : Prop :=
  ∀ (nnn : Addr12) (s : State), ∃ t, exec (.jpV0 nnn) s = .next t ∧
    t.pc.toNat = nnn.toNat + (s.reg 0).toNat ∧ SameBut [.pc] s t

/-- 2NNN pushes PC + 2 and sets PC to NNN; with 16 entries on the stack it raises StackOverflow and changes nothing
else; its word and its outcome (R82). -/
def Obligations.CallPushesReturnAddress : Prop :=
  (∀ nnn : Addr12, (encode (.call nnn)).toNat = 0x2000 + nnn.toNat ∧ outcomeOf (.call nnn) = .advanced) ∧
  (∀ (nnn : Addr12) (s : State), s.sp.val < 16 → ∃ t, exec (.call nnn) s = .next t ∧
    t.sp.val = s.sp.val + 1 ∧
    (∀ k : Fin 16, t.stack[k.val] = if k.val = s.sp.val then s.pc + 2 else s.stack[k.val]) ∧
    t.pc.toNat = nnn.toNat ∧ SameBut [.stack, .pc] s t) ∧
  (∀ (nnn : Addr12) (s : State), s.sp.val = 16 →
    exec (.call nnn) s = .next { s with fault := some .stackOverflow })

/-- 00EE pops the top entry into PC, with no further +2 and no check: above 0xFFE the next fetch faults; on an empty stack
it raises StackUnderflow and changes nothing else; its word and its outcome (R83). -/
def Obligations.ReturnPopsIntoProgramCounter : Prop :=
  (encode .ret = 0x00EE ∧ outcomeOf .ret = .advanced) ∧
  (∀ s : State, (h : 0 < s.sp.val) → ∃ t, exec .ret s = .next t ∧
    t.sp.val = s.sp.val - 1 ∧ t.pc = s.stack[s.sp.val - 1] ∧ t.stack = s.stack ∧ SameBut [.stack, .pc] s t ∧
    (0xFFE < t.pc.toNat → s.Running → step t = .next { t with fault := some .memoryFault })) ∧
  (∀ s : State, s.sp.val = 0 → exec .ret s = .next { s with fault := some .stackUnderflow })

/-- A call and the return from it resume at the instruction after the call, with the depth as it was (R82, R83). -/
def Obligations.CallThenReturnResumes : Prop :=
  ∀ (nnn : Addr12) (s : State), s.sp.val < 16 → ∃ t u, exec (.call nnn) s = .next t ∧ exec .ret t = .next u ∧
    u.pc = s.pc + 2 ∧ u.sp = s.sp ∧ SameBut [.stack, .pc] s u

/-! ### Skips -/

/-- 3XNN and 5XY0 skip when equal, 4XNN and 9XY0 when not equal; nothing but PC changes (R90 to R94). Which of each pair
tests equality is general knowledge the spec supplies (93_implementation_defined.md G3). -/
def Obligations.CompareAndSkip : Prop :=
  ∀ (x y : RegIx) (nn : Byte) (s : State),
    (∃ t, exec (.seImm x nn) s = .next t ∧
      t.pc = (if s.reg x = nn then s.pc + 4 else s.pc + 2) ∧ SameBut [.pc] s t) ∧
    (∃ t, exec (.sneImm x nn) s = .next t ∧
      t.pc = (if s.reg x = nn then s.pc + 2 else s.pc + 4) ∧ SameBut [.pc] s t) ∧
    (∃ t, exec (.seReg x y) s = .next t ∧
      t.pc = (if s.reg x = s.reg y then s.pc + 4 else s.pc + 2) ∧ SameBut [.pc] s t) ∧
    (∃ t, exec (.sneReg x y) s = .next t ∧
      t.pc = (if s.reg x = s.reg y then s.pc + 2 else s.pc + 4) ∧ SameBut [.pc] s t)

/-- EX9E skips when the key numbered by the low four bits of VX is pressed, EXA1 when it is not; the keys stay as they are
(R95, R96). The low nibble is decision D10, which skips on pressed is general knowledge (G3). -/
def Obligations.KeySkip : Prop :=
  ∀ (x : RegIx) (k : Fin 16) (s : State), (s.reg x).toNat % 16 = k.val →
    (∃ t, exec (.skp x) s = .next t ∧
      t.pc = (if s.key[k.val] = true then s.pc + 4 else s.pc + 2) ∧ SameBut [.pc] s t) ∧
    (∃ t, exec (.sknp x) s = .next t ∧
      t.pc = (if s.key[k.val] = true then s.pc + 2 else s.pc + 4) ∧ SameBut [.pc] s t)

/-! ### Loads and stores -/

/-- 6XNN and 8XY0 write VX, whichever register it is, VF among them (R100, R101). -/
def Obligations.LoadImmediateAndCopy : Prop :=
  ∀ (x y : RegIx) (nn : Byte) (s : State),
    (∃ t, exec (.ldImm x nn) s = .next t ∧ t.reg x = nn ∧ RegsSameBut [x] s t ∧ t.pc = s.pc + 2 ∧
      SameBut [.regs, .pc] s t) ∧
    (∃ t, exec (.ldReg x y) s = .next t ∧ t.reg x = s.reg y ∧ RegsSameBut [x] s t ∧ t.pc = s.pc + 2 ∧
      SameBut [.regs, .pc] s t)

/-- ANNN sets I to NNN, whatever NNN is; its word, and the source's scenario 0xA2 0x2A (R102). -/
def Obligations.LoadIndex : Prop :=
  (∀ nnn : Addr12, (encode (.ldI nnn)).toNat = 0xA000 + nnn.toNat ∧
    ∀ s : State, ∃ t, exec (.ldI nnn) s = .next t ∧
      t.i.toNat = nnn.toNat ∧ t.pc = s.pc + 2 ∧ SameBut [.index, .pc] s t) ∧
  (∃ t, step ((load [0xA2, 0x2A] State.reset).2) = .next t ∧ t.i = 0x22A ∧ t.pc = 0x202)

/-- FX07 reads DT into VX and FX15 writes DT from VX (R103, R104). The directions are general knowledge (G4). -/
def Obligations.DelayTimerCopies : Prop :=
  ∀ (x : RegIx) (s : State),
    (∃ t, exec (.ldFromDT x) s = .next t ∧ t.reg x = s.dt ∧ RegsSameBut [x] s t ∧ t.pc = s.pc + 2 ∧
      SameBut [.regs, .pc] s t) ∧
    (∃ t, exec (.ldDT x) s = .next t ∧ t.dt = s.reg x ∧ t.pc = s.pc + 2 ∧ SameBut [.delay, .pc] s t)

/-- FX18 writes ST from VX, and the sound line follows at once; ST = 1 sounds until the next tick; its word (R105). -/
def Obligations.SoundTimerSet : Prop :=
  ∀ x : RegIx, (encode (.ldST x)).toNat = 0xF018 + 0x100 * x.val ∧
    ∀ s : State, ∃ t, exec (.ldST x) s = .next t ∧ t.st = s.reg x ∧
      (t.soundActive = true ↔ (s.reg x).toNat ≠ 0) ∧
      ((s.reg x).toNat = 1 → (tickTimers t).soundActive = false) ∧ t.pc = s.pc + 2 ∧ SameBut [.sound, .pc] s t

/-- FX29 sets I to FONT_BASE + VX × 5, with the whole of VX, for every FONT_BASE, a value of at most 0x6AB; its word
(R106). -/
def Obligations.FontAddress : Prop :=
  ∀ x : RegIx, (encode (.ldFont x)).toNat = 0xF029 + 0x100 * x.val ∧
    ∀ s : State, ∃ t, exec (.ldFont x) s = .next t ∧
      t.i.toNat = s.cfg.fontBase.val + (s.reg x).toNat * 5 ∧ t.i.toNat ≤ 0x6AB ∧
      t.pc = s.pc + 2 ∧ SameBut [.index, .pc] s t

/-- FX55 stores V0 to VX at I to I + X and changes no other byte; when an address is above 0xFFF it raises MemoryFault and
stores nothing (R107). -/
def Obligations.StoreRegisters : Prop :=
  (∀ (x : RegIx) (s : State), s.i.toNat + x.val ≤ 0xFFF → ∃ t, exec (.storeRegs x) s = .next t ∧
    (∀ k : RegIx, k ≤ x → t.readByte (s.i.toNat + k.val) = s.reg k) ∧
    (∀ a : Nat, (a < s.i.toNat ∨ s.i.toNat + x.val < a) → t.readByte a = s.readByte a) ∧
    t.pc = s.pc + 2 ∧ SameBut [.memory, .pc] s t) ∧
  (∀ (x : RegIx) (s : State), 0xFFF < s.i.toNat + x.val →
    exec (.storeRegs x) s = .next { s with fault := some .memoryFault })

/-- FX65 loads V0 to VX from I to I + X and leaves the registers above VX; when an address is above 0xFFF it raises
MemoryFault and loads nothing (R108). -/
def Obligations.LoadRegisters : Prop :=
  (∀ (x : RegIx) (s : State), s.i.toNat + x.val ≤ 0xFFF → ∃ t, exec (.loadRegs x) s = .next t ∧
    (∀ k : RegIx, t.reg k = if k ≤ x then s.readByte (s.i.toNat + k.val) else s.reg k) ∧
    t.pc = s.pc + 2 ∧ SameBut [.regs, .pc] s t) ∧
  (∀ (x : RegIx) (s : State), 0xFFF < s.i.toNat + x.val →
    exec (.loadRegs x) s = .next { s with fault := some .memoryFault })

/-- A store is seen by the very next fetch: after FX55 or FX33, an instruction word at the new PC that lies in the stored
bytes is made of the registers, or of the decimal digits, stored there (R54, derived by the spec from R47 and R52). -/
def Obligations.StoreIsSeenByNextFetch : Prop :=
  (∀ (x k l : RegIx) (s : State), s.i.toNat + x.val ≤ 0xFFF → k.val + 1 = l.val → l ≤ x →
    (s.pc + 2).toNat = s.i.toNat + k.val →
    ∃ t, exec (.storeRegs x) s = .next t ∧
      t.wordAtPC.toNat = (s.reg k).toNat * 256 + (s.reg l).toNat) ∧
  (∀ (x : RegIx) (k : Nat) (s : State), s.i.toNat + 2 ≤ 0xFFF → k ≤ 1 → (s.pc + 2).toNat = s.i.toNat + k →
    ∃ t, exec (.ldBCD x) s = .next t ∧
      t.wordAtPC.toNat =
        if k = 0 then (s.reg x).toNat / 100 * 256 + (s.reg x).toNat / 10 % 10
        else (s.reg x).toNat / 10 % 10 * 256 + (s.reg x).toNat % 10)

/-- FX1E, when enabled, adds VX to I modulo 65536 and writes no flag; otherwise it raises InvalidOpcode (R112, decisions
D1 and D30: the instruction is not in the source). -/
def Obligations.AddToIndexWhenEnabled : Prop :=
  (∀ (x : RegIx) (s : State), s.cfg.enableFX1E = true → ∃ t, exec (.addI x) s = .next t ∧
    t.i.toNat = (s.i.toNat + (s.reg x).toNat) % 65536 ∧ t.pc = s.pc + 2 ∧ SameBut [.index, .pc] s t) ∧
  (∀ (x : RegIx) (s : State), s.cfg.enableFX1E = false →
    exec (.addI x) s = .next { s with fault := some .invalidOpcode })

/-! ### Arithmetic and logic -/

/-- 7XNN adds modulo 256 and writes no flag: every register but VX is unchanged (R115). -/
def Obligations.AddImmediate : Prop :=
  ∀ (x : RegIx) (nn : Byte) (s : State), ∃ t, exec (.addImm x nn) s = .next t ∧
    (t.reg x).toNat = ((s.reg x).toNat + nn.toNat) % 256 ∧ RegsSameBut [x] s t ∧ t.pc = s.pc + 2 ∧
    SameBut [.regs, .pc] s t

/-- 8XY4: VX takes the sum modulo 256, VF the carry (R116, R119); with X = 15 the flag remains (decision D4). -/
def Obligations.AddWithCarryFlag : Prop :=
  ∀ (x y : RegIx) (s : State), ∃ t, exec (.addReg x y) s = .next t ∧
    (x ≠ 15 → (t.reg x).toNat = ((s.reg x).toNat + (s.reg y).toNat) % 256) ∧
    (t.reg 15).toNat = (if (s.reg x).toNat + (s.reg y).toNat > 255 then 1 else 0) ∧
    RegsSameBut [x, 15] s t ∧ t.pc = s.pc + 2 ∧ SameBut [.regs, .pc] s t

/-- 8XY5 and 8XY7: VX takes the difference modulo 256, VF is 1 when there is no borrow (R117, R118, R119); with X = 15 the
flag remains (decision D4), and the comparison of 8XY7 is derived by the spec from 8XY5's. -/
def Obligations.SubtractWithBorrowFlag : Prop :=
  ∀ (x y : RegIx) (s : State),
    (∃ t, exec (.sub x y) s = .next t ∧
      (x ≠ 15 → (t.reg x).toNat = ((s.reg x).toNat + 256 - (s.reg y).toNat) % 256) ∧
      (t.reg 15).toNat = (if (s.reg x).toNat ≥ (s.reg y).toNat then 1 else 0) ∧
      RegsSameBut [x, 15] s t ∧ t.pc = s.pc + 2 ∧ SameBut [.regs, .pc] s t) ∧
    (∃ t, exec (.subn x y) s = .next t ∧
      (x ≠ 15 → (t.reg x).toNat = ((s.reg y).toNat + 256 - (s.reg x).toNat) % 256) ∧
      (t.reg 15).toNat = (if (s.reg y).toNat ≥ (s.reg x).toNat then 1 else 0) ∧
      RegsSameBut [x, 15] s t ∧ t.pc = s.pc + 2 ∧ SameBut [.regs, .pc] s t)

/-- 8XY1, 8XY2, 8XY3, bit by bit: VX takes the OR, AND, XOR of VX and VY; VF is written, with 0 and after VX, only under
LOGIC_RESETS_VF (R121 to R124; decision D3, and G7 for the operands). -/
def Obligations.BitwiseLogic : Prop :=
  ∀ (x y : RegIx) (s : State),
    let result := fun (t : State) (f : Bool → Bool → Bool) =>
      (¬ (s.cfg.logicResetsVF = true ∧ x = 15) →
        ∀ b : Nat, b < 8 → (t.reg x).getLsbD b = f ((s.reg x).getLsbD b) ((s.reg y).getLsbD b)) ∧
      (s.cfg.logicResetsVF = true → t.reg 15 = 0 ∧ RegsSameBut [x, 15] s t) ∧
      (s.cfg.logicResetsVF = false → RegsSameBut [x] s t) ∧
      t.pc = s.pc + 2 ∧ SameBut [.regs, .pc] s t
    (∃ t, exec (.orReg x y) s = .next t ∧ result t fun p q => p || q) ∧
    (∃ t, exec (.andReg x y) s = .next t ∧ result t fun p q => p && q) ∧
    (∃ t, exec (.xorReg x y) s = .next t ∧ result t fun p q => p ^^ q)

/-- 8XY6 and 8XYE shift by one the register SHIFT_SRC names, for both its settings: VX takes the result, VF the bit
shifted out (R125, R126; decision D2); with X = 15 the flag remains (decision D4). -/
def Obligations.ShiftByOne : Prop :=
  ∀ (x y src : RegIx) (s : State), src = (if s.cfg.shiftSrc = .vx then x else y) →
    (∃ t, exec (.shr x y) s = .next t ∧
      (x ≠ 15 → (t.reg x).toNat = (s.reg src).toNat / 2) ∧
      (t.reg 15).toNat = (s.reg src).toNat % 2 ∧
      RegsSameBut [x, 15] s t ∧ t.pc = s.pc + 2 ∧ SameBut [.regs, .pc] s t) ∧
    (∃ t, exec (.shl x y) s = .next t ∧
      (x ≠ 15 → (t.reg x).toNat = 2 * (s.reg src).toNat % 256) ∧
      (t.reg 15).toNat = (s.reg src).toNat / 128 ∧
      RegsSameBut [x, 15] s t ∧ t.pc = s.pc + 2 ∧ SameBut [.regs, .pc] s t)

/-! ### Random, BCD, draw, key wait, invalid -/

/-- CXNN: VX takes the next byte of the random input, a free value, masked with NN; exactly one byte is consumed (R130). -/
def Obligations.RandomByteMasked : Prop :=
  ∀ (x : RegIx) (nn : Byte) (s : State), ∃ t, exec (.rnd x nn) s = .next t ∧
    t.reg x = Config.randomByte s.rngPos &&& nn ∧ t.rngPos = s.rngPos + 1 ∧
    RegsSameBut [x] s t ∧ t.pc = s.pc + 2 ∧ SameBut [.regs, .random, .pc] s t

/-- FX33 stores the hundreds, tens and units of VX at I, I + 1, I + 2, and changes no other byte; when I + 2 is above
0xFFF it raises MemoryFault and stores nothing (R133). -/
def Obligations.DecimalDigitsStored : Prop :=
  (∀ (x : RegIx) (s : State), s.i.toNat + 2 ≤ 0xFFF → ∃ t, exec (.ldBCD x) s = .next t ∧
    (t.readByte s.i.toNat).toNat = (s.reg x).toNat / 100 ∧
    (t.readByte (s.i.toNat + 1)).toNat = (s.reg x).toNat / 10 % 10 ∧
    (t.readByte (s.i.toNat + 2)).toNat = (s.reg x).toNat % 10 ∧
    (∀ a : Nat, (a < s.i.toNat ∨ s.i.toNat + 2 < a) → t.readByte a = s.readByte a) ∧
    t.pc = s.pc + 2 ∧ SameBut [.memory, .pc] s t) ∧
  (∀ (x : RegIx) (s : State), 0xFFF < s.i.toNat + 2 →
    exec (.ldBCD x) s = .next { s with fault := some .memoryFault })

/-- DXYN flips exactly the pixels under the sprite's 1 bits, with wrap on both axes, and VF is 1 exactly when one of them
was set; DIRTY is set; I and memory stay (R135 to R140). The bit and row order is decision D12, DIRTY decision D15, the
operand order decision D4, N = 0 decision D13. -/
def Obligations.DrawFlipsSpritePixels : Prop :=
  ∀ (x y : RegIx) (n : Fin 16) (s : State), (n.val = 0 ∨ s.i.toNat + n.val - 1 ≤ 0xFFF) →
    ∃ t, exec (.drw x y n) s = .next t ∧
      (∀ px py, Display.pixel t.display px py = true ↔
        (Display.pixel s.display px py = true ↔ ¬ SpriteCovers s x y n px py)) ∧
      (t.reg 15 = 1 ∨ t.reg 15 = 0) ∧
      (t.reg 15 = 1 ↔ ∃ px py, Display.pixel s.display px py = true ∧ SpriteCovers s x y n px py) ∧
      RegsSameBut [15] s t ∧ t.dirty = true ∧ t.pc = s.pc + 2 ∧ SameBut [.regs, .display, .dirty, .pc] s t

/-- DXYN with a sprite byte above 0xFFF raises MemoryFault before any change (R135, R48). -/
def Obligations.DrawOutsideMemoryFaults : Prop :=
  ∀ (x y : RegIx) (n : Fin 16) (s : State), 1 ≤ n.val → 0xFFF < s.i.toNat + n.val - 1 →
    exec (.drw x y n) s = .next { s with fault := some .memoryFault }

/-- Drawing the same sprite twice at the same place restores the display, and the second draw reports a collision exactly
when the first one set a pixel; on a display clear under the sprite, exactly when the sprite has a 1 bit (R141, which the
spec derives from R135, and whose property the source states; on a display that is not clear there R135 gives what is
stated here, not R141's last sentence but one: notes/assumptions/9.md). -/
def Obligations.DoubleDrawRestoresDisplay : Prop :=
  ∀ (x y : RegIx) (n : Fin 16) (s : State), x ≠ 15 → y ≠ 15 → (n.val = 0 ∨ s.i.toNat + n.val - 1 ≤ 0xFFF) →
    ∃ t u, exec (.drw x y n) s = .next t ∧ exec (.drw x y n) t = .next u ∧
      (∀ px py, Display.pixel u.display px py = Display.pixel s.display px py) ∧
      (u.reg 15 = 1 ↔ ∃ px py, Display.pixel s.display px py = false ∧ SpriteCovers s x y n px py) ∧
      ((∀ px py, SpriteCovers s x y n px py → Display.pixel s.display px py = false) →
        (u.reg 15 = 1 ↔ ∃ r c : Nat, r < n.val ∧ c < 8 ∧ (s.readByte (s.i.toNat + r)).getLsbD c = true))

/-- FX0A always suspends: the machine awaits a key for register X, and PC and every other piece of state stay (R145,
decision D11). -/
def Obligations.KeyWaitSuspends : Prop :=
  ∀ (x : RegIx) (s : State), ∃ t, exec (.waitKey x) s = .next t ∧ t.wait = true ∧ t.wreg = x ∧
    SameBut [.waiting] s t

/-- 0NNN, for every NNN but 0E0 and 0EE, always raises InvalidOpcode: PC stays at the instruction and nothing but FAULT
changes; after it the machine is Halted (R150). That the word decodes and its meaning raises the fault is the model's
choice (notes/assumptions/6.md); that a step of the Halted machine returns the latched fault is decision D19, and that the
model answers it with the outcome 'fault' is the model's choice (notes/assumptions/1.md). -/
def Obligations.MachineCodeCallRaisesInvalidOpcode : Prop :=
  (∀ nnn : Addr12, (encode (.sys nnn)).toNat = nnn.toNat ∧
    (nnn ≠ 0x0E0 → nnn ≠ 0x0EE → decode (encode (.sys nnn)) = .ok (.sys nnn))) ∧
  (∀ (nnn : Addr12) (s : State), exec (.sys nnn) s = .next { s with fault := some .invalidOpcode } ∧
    step { s with fault := some .invalidOpcode } = .fault .invalidOpcode)

/-! ### The host's operations -/

/-- `load` of an image that fits leaves the table of R30, whatever the state before it, with the memory the image, the
font and zero, and touches neither the parameters nor the random input (R190, R131; decisions D15, D16, D17, D28; the
model's own fields by notes/assumptions/3.md and 4.md). -/
def Obligations.LoadResetsTheMachine : Prop :=
  ∀ (image : List Byte) (s : State), image.length ≤ 3584 → ∃ t, load image s = (.ok, t) ∧
    (∀ r, t.reg r = 0) ∧ t.i = 0 ∧ t.pc = 0x200 ∧ t.sp.val = 0 ∧ (∀ k : Fin 16, t.stack[k.val] = 0) ∧
    t.dt = 0 ∧ t.st = 0 ∧ (∀ x y, Display.pixel t.display x y = false) ∧ t.dirty = false ∧
    (∀ k : Fin 16, t.key[k.val] = false) ∧ t.progLen.toNat = image.length ∧ t.wait = false ∧ t.wreg = 0 ∧
    t.fault = none ∧ t.cfg = s.cfg ∧ t.rngPos = s.rngPos ∧ ∀ a : Nat, a < 4096 → t.readByte a = loadedByte s.cfg image a

/-- `load` of an image of more than 3584 bytes is rejected and changes nothing (R193). -/
def Obligations.OversizedImageChangesNothing : Prop :=
  ∀ (image : List Byte) (s : State), 3584 < image.length → load image s = (.programTooLarge, s)

/-- The state at power-on: registers, timers, stack, display and keys zero, PC at 0x200, the default font at 0x000 and zero
elsewhere (R30, R191; decisions D15 to D18; the model's own fields by notes/assumptions/3.md and 4.md). -/
def Obligations.PowerOnState : Prop :=
  (∀ r, State.reset.reg r = 0) ∧ State.reset.i = 0 ∧ State.reset.pc = 0x200 ∧ State.reset.sp.val = 0 ∧
  (∀ k : Fin 16, State.reset.stack[k.val] = 0) ∧ State.reset.dt = 0 ∧ State.reset.st = 0 ∧
  (∀ x y, Display.pixel State.reset.display x y = false) ∧ State.reset.dirty = false ∧
  (∀ k : Fin 16, State.reset.key[k.val] = false) ∧ State.reset.progLen = 0 ∧ State.reset.wait = false ∧
  State.reset.wreg = 0 ∧ State.reset.fault = none ∧
  (∀ a : Nat, 80 ≤ a → a < 4096 → State.reset.readByte a = 0) ∧
  State.reset.readBytes 0 80 =
    [0xF0, 0x90, 0x90, 0x90, 0xF0, 0x20, 0x60, 0x20, 0x20, 0x70] ++ [0xF0, 0x10, 0xF0, 0x80, 0xF0, 0xF0, 0x10, 0xF0, 0x10, 0xF0] ++
    [0x90, 0x90, 0xF0, 0x10, 0x10, 0xF0, 0x80, 0xF0, 0x10, 0xF0] ++ [0xF0, 0x80, 0xF0, 0x90, 0xF0, 0xF0, 0x10, 0x20, 0x40, 0x40] ++
    [0xF0, 0x90, 0xF0, 0x90, 0xF0, 0xF0, 0x90, 0xF0, 0x10, 0xF0] ++ [0xF0, 0x90, 0xF0, 0x90, 0x90, 0xE0, 0x90, 0xE0, 0x90, 0xE0] ++
    [0xF0, 0x80, 0x80, 0x80, 0xF0, 0xE0, 0x90, 0x90, 0x90, 0xE0] ++ [0xF0, 0x80, 0xF0, 0x80, 0xF0, 0xF0, 0x80, 0xF0, 0x80, 0x80]

/-- After N ticks each timer has gone down by N, floored at 0, and nothing else has changed, in every sub-state (R171). -/
def Obligations.TicksCountDownToZero : Prop :=
  ∀ (n : Nat) (s : State),
    (tickTimers^[n] s).dt.toNat = s.dt.toNat - n ∧ (tickTimers^[n] s).st.toNat = s.st.toNat - n ∧
    SameBut [.delay, .sound] s (tickTimers^[n] s)

/-- Both timers only go down, except when FX15 or FX18 sets them: the only writes are that instruction, which gives the
timer VX, a tick, and a `load` that succeeds, which gives both 0 (R20, with the writes of R18 and R19). -/
def Obligations.TimersRiseOnlyWhenSet : Prop :=
  ∀ (o : HostOp) (s : State),
    ((o.apply s).dt = s.dt ∨ (o = .tickTimers ∧ (o.apply s).dt.toNat = s.dt.toNat - 1) ∨
      ((∃ image, o = .load image) ∧ (o.apply s).dt = 0) ∨
      (o = .step ∧ s.Running ∧ ∃ x, fetchInstr s = .ok (.ldDT x) ∧ (o.apply s).dt = s.reg x)) ∧
    ((o.apply s).st = s.st ∨ (o = .tickTimers ∧ (o.apply s).st.toNat = s.st.toNat - 1) ∨
      ((∃ image, o = .load image) ∧ (o.apply s).st = 0) ∨
      (o = .step ∧ s.Running ∧ ∃ x, fetchInstr s = .ok (.ldST x) ∧ (o.apply s).st = s.reg x))

/-- A key press: a released-to-pressed transition during a wait completes the FX0A, giving the key code to its register
and moving PC on by 2; otherwise only that key's bit is set (R147, R173; decision D11). -/
def Obligations.KeyPressCompletesWait : Prop :=
  ∀ (k : Fin 16) (s t : State), t = keyPress k.val s →
    (∀ j : Fin 16, t.key[j.val] = (if j = k then true else s.key[j.val])) ∧
    (s.wait = true ∧ s.key[k.val] = false →
      (t.reg s.wreg).toNat = k.val ∧ RegsSameBut [s.wreg] s t ∧ t.pc = s.pc + 2 ∧ t.wait = false ∧
      t.wreg = s.wreg ∧ SameBut [.keys, .regs, .pc, .waiting] s t) ∧
    (¬ (s.wait = true ∧ s.key[k.val] = false) → SameBut [.keys] s t)

/-- A key release clears that key's bit and changes nothing else (R174). -/
def Obligations.KeyReleaseClearsKey : Prop :=
  ∀ (k : Fin 16) (s t : State), t = keyRelease k.val s →
    (∀ j : Fin 16, t.key[j.val] = (if j = k then false else s.key[j.val])) ∧ SameBut [.keys] s t

/-- Key codes above 15 are ignored (R175). -/
def Obligations.OutOfRangeKeysIgnored : Prop :=
  ∀ (k : Nat) (s : State), 15 < k → keyPress k s = s ∧ keyRelease k s = s

/-- `read_display` returns the grid and DIRTY, and clears DIRTY alone (R178; decisions D15 and D31). -/
def Obligations.ReadDisplayClearsDirty : Prop :=
  ∀ s : State, (readDisplay s).1 = (s.display, s.dirty) ∧ (readDisplay s).2.dirty = false ∧
    SameBut [.dirty] s (readDisplay s).2

/-! ### Whole-machine rules and invariants -/

/-- A key wait lasts: through any steps, ticks, releases and display reads, and presses of keys above 15, the machine
still awaits the key, and PC, the registers and memory stay (R146, R148; decision D11). -/
def Obligations.KeyWaitHasNoTimeout : Prop :=
  ∀ (os : List HostOp) (s : State), s.fault = none → s.wait = true →
    (∀ o ∈ os, (∀ k, o = .keyPress k → 15 < k) ∧ ∀ image, o = .load image → 3584 < image.length) →
    (runOps os s).wait = true ∧ SameBut [.delay, .sound, .keys, .dirty] s (runOps os s)

/-- A Halted machine stays Halted with the same fault through any operations but a `load` that succeeds; only timers, keys
and DIRTY still move (R163, R165; decision D19). The premise that it is not also awaiting a key is R149's, which
`State.Inv` keeps. -/
def Obligations.HaltedUntilLoad : Prop :=
  ∀ (os : List HostOp) (s : State) (k : Fault), s.fault = some k → s.wait = false →
    (∀ o ∈ os, ∀ image, o = .load image → 3584 < image.length) →
    (runOps os s).fault = some k ∧ SameBut [.delay, .sound, .keys, .dirty] s (runOps os s)

/-- The power-on state satisfies the invariant. -/
def Obligations.PowerOnSatisfiesInvariant : Prop := State.reset.Inv

/-- Every step keeps the invariant, from every state that satisfies it: memory in canonical form inside MEM, PC at most
0x10FE and fetchable while a key is awaited (R14), live stack entries in 0x002 to 0x1000 (R21), I at most 0xFFF without
FX1E (R17), never waiting and Halted at once (R149), PROG_LEN at most 3584 (R29). -/
def Obligations.StepKeepsInvariant : Prop :=
  ∀ s t : State, s.Inv → step s = .next t → t.Inv

/-- Every operation of every history, in any interleaving, keeps the invariant, and the parameters never change (R4, R167,
R203). -/
def Obligations.EveryInterleavingKeepsInvariant : Prop :=
  ∀ (os : List HostOp) (s : State), s.Inv → (runOps os s).Inv ∧ (runOps os s).cfg = s.cfg
end

