-- ==== Sys2Proof/Laws/Encoding.lean ====
section
/-! SUPPORT. The fields of an encoded word (R61, R62), and a word from its two bytes (R49). -/

namespace Sys2Proof

theorem toNat_encodeNNN {f : Nat} (hf : f < 16) (nnn : Addr12) :
    (encodeNNN f nnn).toNat = f * 0x1000 + nnn.toNat := by
  have := nnn.isLt
  simp only [encodeNNN, BitVec.toNat_ofNat]
  omega

theorem toNat_encodeXNN {f : Nat} (hf : f < 16) (x : RegIx) (nn : Byte) :
    (encodeXNN f x nn).toNat = f * 0x1000 + x.val * 0x100 + nn.toNat := by
  have := nn.isLt
  simp only [encodeXNN, BitVec.toNat_ofNat]
  omega

theorem toNat_encodeXYN {f : Nat} (hf : f < 16) (x y : RegIx) (n : Fin 16) :
    (encodeXYN f x y n).toNat = f * 0x1000 + x.val * 0x100 + y.val * 0x10 + n.val := by
  simp only [encodeXYN, BitVec.toNat_ofNat]
  omega

/-! ### Fields as numbers -/

theorem fieldF_eq (op : Word) : fieldF op = op.toNat / 0x1000 := by
  have := op.isLt
  simp only [fieldF, BitVec.extractLsb'_toNat, Nat.shiftRight_eq_div_pow]
  omega

theorem val_fieldX (op : Word) : (fieldX op).val = op.toNat / 0x100 % 0x10 := by
  simp [fieldX, Nat.shiftRight_eq_div_pow]

theorem val_fieldY (op : Word) : (fieldY op).val = op.toNat / 0x10 % 0x10 := by
  simp [fieldY, Nat.shiftRight_eq_div_pow]

theorem val_fieldN (op : Word) : (fieldN op).val = op.toNat % 0x10 := by
  simp [fieldN]

theorem toNat_fieldNN (op : Word) : (fieldNN op).toNat = op.toNat % 0x100 := by
  simp [fieldNN]

theorem toNat_fieldNNN (op : Word) : (fieldNNN op).toNat = op.toNat % 0x1000 := by
  simp [fieldNNN]

/-! ### Fields of an encoded word -/

theorem fields_encodeNNN {f : Nat} (hf : f < 16) (nnn : Addr12) :
    fieldF (encodeNNN f nnn) = f ∧ fieldNNN (encodeNNN f nnn) = nnn := by
  have := nnn.isLt
  refine ⟨?_, BitVec.eq_of_toNat_eq ?_⟩
  · rw [fieldF_eq, toNat_encodeNNN hf]; omega
  · rw [toNat_fieldNNN, toNat_encodeNNN hf]; omega

theorem fields_encodeXNN {f : Nat} (hf : f < 16) (x : RegIx) (nn : Byte) :
    fieldF (encodeXNN f x nn) = f ∧ fieldX (encodeXNN f x nn) = x ∧ fieldNN (encodeXNN f x nn) = nn := by
  have := nn.isLt
  refine ⟨?_, Fin.ext ?_, BitVec.eq_of_toNat_eq ?_⟩
  · rw [fieldF_eq, toNat_encodeXNN hf]; omega
  · rw [val_fieldX, toNat_encodeXNN hf]; omega
  · rw [toNat_fieldNN, toNat_encodeXNN hf]; omega

theorem fields_encodeXYN {f : Nat} (hf : f < 16) (x y : RegIx) (n : Fin 16) :
    fieldF (encodeXYN f x y n) = f ∧ fieldX (encodeXYN f x y n) = x ∧ fieldY (encodeXYN f x y n) = y ∧
      fieldN (encodeXYN f x y n) = n := by
  refine ⟨?_, Fin.ext ?_, Fin.ext ?_, Fin.ext ?_⟩
  · rw [fieldF_eq, toNat_encodeXYN hf]; omega
  · rw [val_fieldX, toNat_encodeXYN hf]; omega
  · rw [val_fieldY, toNat_encodeXYN hf]; omega
  · rw [val_fieldN, toNat_encodeXYN hf]; omega

/-- The word of the two bytes of a word is that word (R49). -/
theorem wordOfBytes_bytes (op : Word) : wordOfBytes (highByte op) (lowByte op) = op := by
  apply BitVec.eq_of_toNat_eq
  have := op.isLt
  rw [wordOfBytes, BitVec.toNat_append, ← Nat.shiftLeft_add_eq_or_of_lt (BitVec.isLt _)]
  simp only [highByte, lowByte, BitVec.extractLsb'_toNat, Nat.shiftRight_eq_div_pow, Nat.shiftLeft_eq]
  omega

/-! ### A word under the masks of R66 -/

theorem and_F000 (op : Word) : (op &&& 0xF000).toNat = op.toNat / 0x1000 * 0x1000 := by
  have := op.isLt
  have h1 : (op.toNat &&& 0xF000) / 2 ^ 12 = op.toNat / 2 ^ 12 % 2 ^ 4 := by
    rw [Nat.and_div_two_pow, ← Nat.and_two_pow_sub_one_eq_mod]
  have h2 : (op.toNat &&& 0xF000) % 2 ^ 12 = 0 := by rw [Nat.and_mod_two_pow]; simp
  change op.toNat &&& 0xF000 = _
  omega

theorem and_F0FF (op : Word) : (op &&& 0xF0FF).toNat = op.toNat / 0x1000 * 0x1000 + op.toNat % 0x100 := by
  have := op.isLt
  have h1 : (op.toNat &&& 0xF0FF) / 2 ^ 12 = op.toNat / 2 ^ 12 % 2 ^ 4 := by
    rw [Nat.and_div_two_pow, ← Nat.and_two_pow_sub_one_eq_mod]
  have h2 : (op.toNat &&& 0xF0FF) / 2 ^ 8 % 2 ^ 4 = 0 := by rw [Nat.and_div_two_pow, Nat.and_mod_two_pow]; simp
  have h3 : (op.toNat &&& 0xF0FF) % 2 ^ 8 = op.toNat % 2 ^ 8 := by
    rw [Nat.and_mod_two_pow, show 0xF0FF % 2 ^ 8 = 2 ^ 8 - 1 from rfl, Nat.and_two_pow_sub_one_eq_mod]; omega
  change op.toNat &&& 0xF0FF = _
  omega

theorem and_F00F (op : Word) : (op &&& 0xF00F).toNat = op.toNat / 0x1000 * 0x1000 + op.toNat % 0x10 := by
  have := op.isLt
  have h1 : (op.toNat &&& 0xF00F) / 2 ^ 12 = op.toNat / 2 ^ 12 % 2 ^ 4 := by
    rw [Nat.and_div_two_pow, ← Nat.and_two_pow_sub_one_eq_mod]
  have h2 : (op.toNat &&& 0xF00F) / 2 ^ 4 % 2 ^ 8 = 0 := by rw [Nat.and_div_two_pow, Nat.and_mod_two_pow]; simp
  have h3 : (op.toNat &&& 0xF00F) % 2 ^ 4 = op.toNat % 2 ^ 4 := by
    rw [Nat.and_mod_two_pow, show 0xF00F % 2 ^ 4 = 2 ^ 4 - 1 from rfl, Nat.and_two_pow_sub_one_eq_mod]; omega
  change op.toNat &&& 0xF00F = _
  omega

theorem encodeNNN_masked {f : Nat} (hf : f < 16) (nnn : Addr12) :
    encodeNNN f nnn &&& 0xF000 = BitVec.ofNat 16 (f * 0x1000) := by
  have := nnn.isLt
  apply BitVec.eq_of_toNat_eq
  rw [and_F000, toNat_encodeNNN hf, BitVec.toNat_ofNat]
  omega

theorem encodeXNN_masked {f : Nat} (hf : f < 16) (x : RegIx) (nn : Byte) :
    encodeXNN f x nn &&& 0xF000 = BitVec.ofNat 16 (f * 0x1000) := by
  have := nn.isLt
  apply BitVec.eq_of_toNat_eq
  rw [and_F000, toNat_encodeXNN hf, BitVec.toNat_ofNat]
  omega

theorem encodeXNN_masked_byte {f : Nat} (hf : f < 16) (x : RegIx) (nn : Byte) :
    encodeXNN f x nn &&& 0xF0FF = BitVec.ofNat 16 (f * 0x1000 + nn.toNat) := by
  have := nn.isLt
  apply BitVec.eq_of_toNat_eq
  rw [and_F0FF, toNat_encodeXNN hf, BitVec.toNat_ofNat]
  omega

theorem encodeXYN_masked {f : Nat} (hf : f < 16) (x y : RegIx) (n : Fin 16) :
    encodeXYN f x y n &&& 0xF000 = BitVec.ofNat 16 (f * 0x1000) := by
  apply BitVec.eq_of_toNat_eq
  rw [and_F000, toNat_encodeXYN hf, BitVec.toNat_ofNat]
  omega

theorem encodeXYN_masked_nibble {f : Nat} (hf : f < 16) (x y : RegIx) (n : Fin 16) :
    encodeXYN f x y n &&& 0xF00F = BitVec.ofNat 16 (f * 0x1000 + n.val) := by
  apply BitVec.eq_of_toNat_eq
  rw [and_F00F, toNat_encodeXYN hf, BitVec.toNat_ofNat]
  omega

end Sys2Proof
end

