-- ==== Sys2Proof/Laws/Memory.lean ====
section
/-! SUPPORT. Reading after writing, and that every memory operation keeps the canonical form. None of the reading laws
needs the canonical form as a premise. -/

namespace Sys2Proof.Machine

variable (c : Config)

/-! ### Reading after writing -/

theorem Memory.read_filter_self (m : Memory) (a : Nat) :
    Memory.read c (m.filter (fun p => p.1 ≠ a)) a = Memory.background c a := by
  induction m with
  | nil => rfl
  | cons p m ih =>
    by_cases h : p.1 = a
    · simpa [List.filter_cons, h] using ih
    · simpa [List.filter_cons, h, Memory.read] using ih

theorem Memory.read_filter_other (m : Memory) {a a' : Nat} (h : a' ≠ a) :
    Memory.read c (m.filter (fun p => p.1 ≠ a)) a' = Memory.read c m a' := by
  induction m with
  | nil => rfl
  | cons p m ih =>
    by_cases hp : p.1 = a
    · have : p.1 ≠ a' := fun e => h (e.symm.trans hp)
      simpa [List.filter_cons, hp, Memory.read, h.symm] using ih
    · rw [List.filter_cons_of_pos (by simpa using hp)]
      simp only [Memory.read, ih]

theorem Memory.read_insert_self (m : Memory) (a : Nat) (b : Byte) (h : ∀ p ∈ m, p.1 ≠ a) :
    Memory.read c (Memory.insert a b m) a = b := by
  induction m with
  | nil => simp [Memory.insert, Memory.read]
  | cons p m ih =>
    unfold Memory.insert
    split
    · simp [Memory.read]
    · have hp : p.1 ≠ a := h p (by simp)
      simpa [Memory.read, hp] using ih fun q hq => h q (by simp [hq])

theorem Memory.read_insert_other (m : Memory) {a a' : Nat} (b : Byte) (h : a' ≠ a) :
    Memory.read c (Memory.insert a b m) a' = Memory.read c m a' := by
  induction m with
  | nil => simp [Memory.insert, Memory.read, h.symm]
  | cons p m ih =>
    unfold Memory.insert
    split
    · simp [Memory.read, h.symm]
    · simp only [Memory.read, ih]

/-- One byte written at `a` is the byte read at `a`, and every other address reads as before (R46). -/
theorem Memory.read_write (m : Memory) (a a' : Nat) (b : Byte) :
    Memory.read c (Memory.write c m a b) a' = if a' = a then b else Memory.read c m a' := by
  unfold Memory.write
  by_cases h : a' = a
  · subst h
    by_cases hb : b = Memory.background c a'
    · simp only [hb, if_true, Memory.read_filter_self]
    · simp only [hb, if_false, if_true]
      exact Memory.read_insert_self c _ _ _ (by simp)
  · by_cases hb : b = Memory.background c a
    · simp only [hb, if_true, h, if_false, Memory.read_filter_other c m h]
    · simp only [hb, if_false, h, Memory.read_insert_other c _ b h, Memory.read_filter_other c m h]

/-- Bytes written at `a`, `a + 1`, … are read there, and every other address reads as before (R49). -/
theorem Memory.read_writeAll (m : Memory) (a : Nat) (bs : List Byte) (a' : Nat) :
    Memory.read c (Memory.writeAll c m a bs) a' =
      if h : a ≤ a' ∧ a' < a + bs.length then bs[a' - a] else Memory.read c m a' := by
  induction bs generalizing m a with
  | nil => rw [dif_neg (by simp)]; rfl
  | cons b bs ih =>
    rw [Memory.writeAll, ih, Memory.read_write]
    by_cases h₁ : a' = a
    · subst h₁
      rw [dif_neg (by omega), dif_pos (by simp)]
      simp
    · by_cases h₂ : a + 1 ≤ a' ∧ a' < a + 1 + bs.length
      · rw [dif_pos h₂, dif_pos (by simp only [List.length_cons]; omega)]
        obtain ⟨k, rfl⟩ : ∃ k, a' = a + 1 + k := ⟨a' - (a + 1), by omega⟩
        simp [show a + 1 + k - a = k + 1 by omega]
      · rw [dif_neg h₂, dif_neg (by simp only [List.length_cons]; omega), if_neg h₁]

/-! ### The canonical form -/

theorem Memory.wf_nil : Memory.wf c [] := by simp [Memory.wf]

theorem Memory.mem_insert {m : Memory} {a : Nat} {b : Byte} {p : Host.Cell} :
    p ∈ Memory.insert a b m ↔ p = (a, b) ∨ p ∈ m := by
  induction m with
  | nil => simp [Memory.insert]
  | cons q m ih =>
    unfold Memory.insert
    split
    · simp
    · simp only [List.mem_cons, ih]; tauto

theorem Memory.pairwise_insert {m : Memory} {a : Nat} {b : Byte} (hm : m.Pairwise (fun p q => p.1 < q.1))
    (ha : ∀ p ∈ m, p.1 ≠ a) : (Memory.insert a b m).Pairwise (fun p q => p.1 < q.1) := by
  induction m with
  | nil => simp [Memory.insert]
  | cons q m ih =>
    rw [List.pairwise_cons] at hm
    unfold Memory.insert
    split
    · next hlt =>
      refine List.pairwise_cons.2 ⟨fun p hp => ?_, List.pairwise_cons.2 hm⟩
      rcases List.mem_cons.1 hp with rfl | hp
      · exact hlt
      · exact Nat.lt_trans hlt (hm.1 p hp)
    · next hge =>
      refine List.pairwise_cons.2 ⟨fun p hp => ?_, ih hm.2 fun p hp => ha p (by simp [hp])⟩
      rcases Memory.mem_insert.1 hp with rfl | hp
      · have : q.1 ≠ a := ha q (by simp)
        show q.1 < a
        omega
      · exact hm.1 p hp

/-- A write inside MEM keeps the canonical form. -/
theorem Memory.wf_write {m : Memory} (hm : Memory.wf c m) {a : Nat} (ha : a < memSize) (b : Byte) :
    Memory.wf c (Memory.write c m a b) := by
  have hf : Memory.wf c (m.filter (fun p => p.1 ≠ a)) :=
    ⟨hm.1.filter _, fun p hp => hm.2 p (List.mem_of_mem_filter hp)⟩
  unfold Memory.write
  by_cases hb : b = Memory.background c a
  · simpa only [hb, if_true] using hf
  · simp only [hb, if_false]
    refine ⟨Memory.pairwise_insert hf.1 (by simp), fun p hp => ?_⟩
    rcases Memory.mem_insert.1 hp with rfl | hp
    · exact ⟨ha, hb⟩
    · exact hf.2 p hp

/-- A run of writes inside MEM keeps the canonical form. -/
theorem Memory.wf_writeAll {m : Memory} (hm : Memory.wf c m) {a : Nat} {bs : List Byte}
    (ha : a + bs.length ≤ memSize) : Memory.wf c (Memory.writeAll c m a bs) := by
  induction bs generalizing m a with
  | nil => exact hm
  | cons b bs ih =>
    simp only [List.length_cons] at ha
    exact ih (Memory.wf_write c hm (by omega) b) (by omega)

end Sys2Proof.Machine
end

