-- ==== Sys2Proof/Laws/State.lean ====
section
/-! SUPPORT. For every named update of the state, what each field is after it. -/

namespace Sys2Proof.Machine

variable (s : State)

/-! ### setReg -/

@[simp] theorem setReg_v (x : RegIx) (b : Byte) : (s.setReg x b).v = s.v.set x.val b := rfl
@[simp] theorem setReg_i (x : RegIx) (b : Byte) : (s.setReg x b).i = s.i := rfl
@[simp] theorem setReg_pc (x : RegIx) (b : Byte) : (s.setReg x b).pc = s.pc := rfl
@[simp] theorem setReg_sp (x : RegIx) (b : Byte) : (s.setReg x b).sp = s.sp := rfl
@[simp] theorem setReg_stack (x : RegIx) (b : Byte) : (s.setReg x b).stack = s.stack := rfl
@[simp] theorem setReg_dt (x : RegIx) (b : Byte) : (s.setReg x b).dt = s.dt := rfl
@[simp] theorem setReg_st (x : RegIx) (b : Byte) : (s.setReg x b).st = s.st := rfl
@[simp] theorem setReg_display (x : RegIx) (b : Byte) : (s.setReg x b).display = s.display := rfl
@[simp] theorem setReg_dirty (x : RegIx) (b : Byte) : (s.setReg x b).dirty = s.dirty := rfl
@[simp] theorem setReg_key (x : RegIx) (b : Byte) : (s.setReg x b).key = s.key := rfl
@[simp] theorem setReg_mem (x : RegIx) (b : Byte) : (s.setReg x b).mem = s.mem := rfl
@[simp] theorem setReg_progLen (x : RegIx) (b : Byte) : (s.setReg x b).progLen = s.progLen := rfl
@[simp] theorem setReg_wait (x : RegIx) (b : Byte) : (s.setReg x b).wait = s.wait := rfl
@[simp] theorem setReg_wreg (x : RegIx) (b : Byte) : (s.setReg x b).wreg = s.wreg := rfl
@[simp] theorem setReg_fault (x : RegIx) (b : Byte) : (s.setReg x b).fault = s.fault := rfl
@[simp] theorem setReg_cfg (x : RegIx) (b : Byte) : (s.setReg x b).cfg = s.cfg := rfl
@[simp] theorem setReg_rngPos (x : RegIx) (b : Byte) : (s.setReg x b).rngPos = s.rngPos := rfl

/-! ### setFlag -/

@[simp] theorem setFlag_v (f : Bool) : (s.setFlag f).v = s.v.set 15 (if f then 1 else 0) := rfl
@[simp] theorem setFlag_i (f : Bool) : (s.setFlag f).i = s.i := rfl
@[simp] theorem setFlag_pc (f : Bool) : (s.setFlag f).pc = s.pc := rfl
@[simp] theorem setFlag_sp (f : Bool) : (s.setFlag f).sp = s.sp := rfl
@[simp] theorem setFlag_stack (f : Bool) : (s.setFlag f).stack = s.stack := rfl
@[simp] theorem setFlag_dt (f : Bool) : (s.setFlag f).dt = s.dt := rfl
@[simp] theorem setFlag_st (f : Bool) : (s.setFlag f).st = s.st := rfl
@[simp] theorem setFlag_display (f : Bool) : (s.setFlag f).display = s.display := rfl
@[simp] theorem setFlag_dirty (f : Bool) : (s.setFlag f).dirty = s.dirty := rfl
@[simp] theorem setFlag_key (f : Bool) : (s.setFlag f).key = s.key := rfl
@[simp] theorem setFlag_mem (f : Bool) : (s.setFlag f).mem = s.mem := rfl
@[simp] theorem setFlag_progLen (f : Bool) : (s.setFlag f).progLen = s.progLen := rfl
@[simp] theorem setFlag_wait (f : Bool) : (s.setFlag f).wait = s.wait := rfl
@[simp] theorem setFlag_wreg (f : Bool) : (s.setFlag f).wreg = s.wreg := rfl
@[simp] theorem setFlag_fault (f : Bool) : (s.setFlag f).fault = s.fault := rfl
@[simp] theorem setFlag_cfg (f : Bool) : (s.setFlag f).cfg = s.cfg := rfl
@[simp] theorem setFlag_rngPos (f : Bool) : (s.setFlag f).rngPos = s.rngPos := rfl

/-! ### setRegFlag -/

@[simp] theorem setRegFlag_v (x : RegIx) (b : Byte) (f : Bool) : (s.setRegFlag x b f).v = (s.v.set x.val b).set 15 (if f then 1 else 0) := rfl
@[simp] theorem setRegFlag_i (x : RegIx) (b : Byte) (f : Bool) : (s.setRegFlag x b f).i = s.i := rfl
@[simp] theorem setRegFlag_pc (x : RegIx) (b : Byte) (f : Bool) : (s.setRegFlag x b f).pc = s.pc := rfl
@[simp] theorem setRegFlag_sp (x : RegIx) (b : Byte) (f : Bool) : (s.setRegFlag x b f).sp = s.sp := rfl
@[simp] theorem setRegFlag_stack (x : RegIx) (b : Byte) (f : Bool) : (s.setRegFlag x b f).stack = s.stack := rfl
@[simp] theorem setRegFlag_dt (x : RegIx) (b : Byte) (f : Bool) : (s.setRegFlag x b f).dt = s.dt := rfl
@[simp] theorem setRegFlag_st (x : RegIx) (b : Byte) (f : Bool) : (s.setRegFlag x b f).st = s.st := rfl
@[simp] theorem setRegFlag_display (x : RegIx) (b : Byte) (f : Bool) : (s.setRegFlag x b f).display = s.display := rfl
@[simp] theorem setRegFlag_dirty (x : RegIx) (b : Byte) (f : Bool) : (s.setRegFlag x b f).dirty = s.dirty := rfl
@[simp] theorem setRegFlag_key (x : RegIx) (b : Byte) (f : Bool) : (s.setRegFlag x b f).key = s.key := rfl
@[simp] theorem setRegFlag_mem (x : RegIx) (b : Byte) (f : Bool) : (s.setRegFlag x b f).mem = s.mem := rfl
@[simp] theorem setRegFlag_progLen (x : RegIx) (b : Byte) (f : Bool) : (s.setRegFlag x b f).progLen = s.progLen := rfl
@[simp] theorem setRegFlag_wait (x : RegIx) (b : Byte) (f : Bool) : (s.setRegFlag x b f).wait = s.wait := rfl
@[simp] theorem setRegFlag_wreg (x : RegIx) (b : Byte) (f : Bool) : (s.setRegFlag x b f).wreg = s.wreg := rfl
@[simp] theorem setRegFlag_fault (x : RegIx) (b : Byte) (f : Bool) : (s.setRegFlag x b f).fault = s.fault := rfl
@[simp] theorem setRegFlag_cfg (x : RegIx) (b : Byte) (f : Bool) : (s.setRegFlag x b f).cfg = s.cfg := rfl
@[simp] theorem setRegFlag_rngPos (x : RegIx) (b : Byte) (f : Bool) : (s.setRegFlag x b f).rngPos = s.rngPos := rfl

/-! ### loadRegsFrom -/

@[simp] theorem loadRegsFrom_i (x : RegIx) (a : Nat) : (s.loadRegsFrom x a).i = s.i := rfl
@[simp] theorem loadRegsFrom_pc (x : RegIx) (a : Nat) : (s.loadRegsFrom x a).pc = s.pc := rfl
@[simp] theorem loadRegsFrom_sp (x : RegIx) (a : Nat) : (s.loadRegsFrom x a).sp = s.sp := rfl
@[simp] theorem loadRegsFrom_stack (x : RegIx) (a : Nat) : (s.loadRegsFrom x a).stack = s.stack := rfl
@[simp] theorem loadRegsFrom_dt (x : RegIx) (a : Nat) : (s.loadRegsFrom x a).dt = s.dt := rfl
@[simp] theorem loadRegsFrom_st (x : RegIx) (a : Nat) : (s.loadRegsFrom x a).st = s.st := rfl
@[simp] theorem loadRegsFrom_display (x : RegIx) (a : Nat) : (s.loadRegsFrom x a).display = s.display := rfl
@[simp] theorem loadRegsFrom_dirty (x : RegIx) (a : Nat) : (s.loadRegsFrom x a).dirty = s.dirty := rfl
@[simp] theorem loadRegsFrom_key (x : RegIx) (a : Nat) : (s.loadRegsFrom x a).key = s.key := rfl
@[simp] theorem loadRegsFrom_mem (x : RegIx) (a : Nat) : (s.loadRegsFrom x a).mem = s.mem := rfl
@[simp] theorem loadRegsFrom_progLen (x : RegIx) (a : Nat) : (s.loadRegsFrom x a).progLen = s.progLen := rfl
@[simp] theorem loadRegsFrom_wait (x : RegIx) (a : Nat) : (s.loadRegsFrom x a).wait = s.wait := rfl
@[simp] theorem loadRegsFrom_wreg (x : RegIx) (a : Nat) : (s.loadRegsFrom x a).wreg = s.wreg := rfl
@[simp] theorem loadRegsFrom_fault (x : RegIx) (a : Nat) : (s.loadRegsFrom x a).fault = s.fault := rfl
@[simp] theorem loadRegsFrom_cfg (x : RegIx) (a : Nat) : (s.loadRegsFrom x a).cfg = s.cfg := rfl
@[simp] theorem loadRegsFrom_rngPos (x : RegIx) (a : Nat) : (s.loadRegsFrom x a).rngPos = s.rngPos := rfl

/-! ### setI -/

@[simp] theorem setI_v (w : Word) : (s.setI w).v = s.v := rfl
@[simp] theorem setI_i (w : Word) : (s.setI w).i = w := rfl
@[simp] theorem setI_pc (w : Word) : (s.setI w).pc = s.pc := rfl
@[simp] theorem setI_sp (w : Word) : (s.setI w).sp = s.sp := rfl
@[simp] theorem setI_stack (w : Word) : (s.setI w).stack = s.stack := rfl
@[simp] theorem setI_dt (w : Word) : (s.setI w).dt = s.dt := rfl
@[simp] theorem setI_st (w : Word) : (s.setI w).st = s.st := rfl
@[simp] theorem setI_display (w : Word) : (s.setI w).display = s.display := rfl
@[simp] theorem setI_dirty (w : Word) : (s.setI w).dirty = s.dirty := rfl
@[simp] theorem setI_key (w : Word) : (s.setI w).key = s.key := rfl
@[simp] theorem setI_mem (w : Word) : (s.setI w).mem = s.mem := rfl
@[simp] theorem setI_progLen (w : Word) : (s.setI w).progLen = s.progLen := rfl
@[simp] theorem setI_wait (w : Word) : (s.setI w).wait = s.wait := rfl
@[simp] theorem setI_wreg (w : Word) : (s.setI w).wreg = s.wreg := rfl
@[simp] theorem setI_fault (w : Word) : (s.setI w).fault = s.fault := rfl
@[simp] theorem setI_cfg (w : Word) : (s.setI w).cfg = s.cfg := rfl
@[simp] theorem setI_rngPos (w : Word) : (s.setI w).rngPos = s.rngPos := rfl

/-! ### setDT -/

@[simp] theorem setDT_v (b : Byte) : (s.setDT b).v = s.v := rfl
@[simp] theorem setDT_i (b : Byte) : (s.setDT b).i = s.i := rfl
@[simp] theorem setDT_pc (b : Byte) : (s.setDT b).pc = s.pc := rfl
@[simp] theorem setDT_sp (b : Byte) : (s.setDT b).sp = s.sp := rfl
@[simp] theorem setDT_stack (b : Byte) : (s.setDT b).stack = s.stack := rfl
@[simp] theorem setDT_dt (b : Byte) : (s.setDT b).dt = b := rfl
@[simp] theorem setDT_st (b : Byte) : (s.setDT b).st = s.st := rfl
@[simp] theorem setDT_display (b : Byte) : (s.setDT b).display = s.display := rfl
@[simp] theorem setDT_dirty (b : Byte) : (s.setDT b).dirty = s.dirty := rfl
@[simp] theorem setDT_key (b : Byte) : (s.setDT b).key = s.key := rfl
@[simp] theorem setDT_mem (b : Byte) : (s.setDT b).mem = s.mem := rfl
@[simp] theorem setDT_progLen (b : Byte) : (s.setDT b).progLen = s.progLen := rfl
@[simp] theorem setDT_wait (b : Byte) : (s.setDT b).wait = s.wait := rfl
@[simp] theorem setDT_wreg (b : Byte) : (s.setDT b).wreg = s.wreg := rfl
@[simp] theorem setDT_fault (b : Byte) : (s.setDT b).fault = s.fault := rfl
@[simp] theorem setDT_cfg (b : Byte) : (s.setDT b).cfg = s.cfg := rfl
@[simp] theorem setDT_rngPos (b : Byte) : (s.setDT b).rngPos = s.rngPos := rfl

/-! ### setST -/

@[simp] theorem setST_v (b : Byte) : (s.setST b).v = s.v := rfl
@[simp] theorem setST_i (b : Byte) : (s.setST b).i = s.i := rfl
@[simp] theorem setST_pc (b : Byte) : (s.setST b).pc = s.pc := rfl
@[simp] theorem setST_sp (b : Byte) : (s.setST b).sp = s.sp := rfl
@[simp] theorem setST_stack (b : Byte) : (s.setST b).stack = s.stack := rfl
@[simp] theorem setST_dt (b : Byte) : (s.setST b).dt = s.dt := rfl
@[simp] theorem setST_st (b : Byte) : (s.setST b).st = b := rfl
@[simp] theorem setST_display (b : Byte) : (s.setST b).display = s.display := rfl
@[simp] theorem setST_dirty (b : Byte) : (s.setST b).dirty = s.dirty := rfl
@[simp] theorem setST_key (b : Byte) : (s.setST b).key = s.key := rfl
@[simp] theorem setST_mem (b : Byte) : (s.setST b).mem = s.mem := rfl
@[simp] theorem setST_progLen (b : Byte) : (s.setST b).progLen = s.progLen := rfl
@[simp] theorem setST_wait (b : Byte) : (s.setST b).wait = s.wait := rfl
@[simp] theorem setST_wreg (b : Byte) : (s.setST b).wreg = s.wreg := rfl
@[simp] theorem setST_fault (b : Byte) : (s.setST b).fault = s.fault := rfl
@[simp] theorem setST_cfg (b : Byte) : (s.setST b).cfg = s.cfg := rfl
@[simp] theorem setST_rngPos (b : Byte) : (s.setST b).rngPos = s.rngPos := rfl

/-! ### jump -/

@[simp] theorem jump_v (w : Word) : (s.jump w).v = s.v := rfl
@[simp] theorem jump_i (w : Word) : (s.jump w).i = s.i := rfl
@[simp] theorem jump_pc (w : Word) : (s.jump w).pc = w := rfl
@[simp] theorem jump_sp (w : Word) : (s.jump w).sp = s.sp := rfl
@[simp] theorem jump_stack (w : Word) : (s.jump w).stack = s.stack := rfl
@[simp] theorem jump_dt (w : Word) : (s.jump w).dt = s.dt := rfl
@[simp] theorem jump_st (w : Word) : (s.jump w).st = s.st := rfl
@[simp] theorem jump_display (w : Word) : (s.jump w).display = s.display := rfl
@[simp] theorem jump_dirty (w : Word) : (s.jump w).dirty = s.dirty := rfl
@[simp] theorem jump_key (w : Word) : (s.jump w).key = s.key := rfl
@[simp] theorem jump_mem (w : Word) : (s.jump w).mem = s.mem := rfl
@[simp] theorem jump_progLen (w : Word) : (s.jump w).progLen = s.progLen := rfl
@[simp] theorem jump_wait (w : Word) : (s.jump w).wait = s.wait := rfl
@[simp] theorem jump_wreg (w : Word) : (s.jump w).wreg = s.wreg := rfl
@[simp] theorem jump_fault (w : Word) : (s.jump w).fault = s.fault := rfl
@[simp] theorem jump_cfg (w : Word) : (s.jump w).cfg = s.cfg := rfl
@[simp] theorem jump_rngPos (w : Word) : (s.jump w).rngPos = s.rngPos := rfl

/-! ### advance -/

@[simp] theorem advance_v : (s.advance).v = s.v := rfl
@[simp] theorem advance_i : (s.advance).i = s.i := rfl
@[simp] theorem advance_pc : (s.advance).pc = s.pc + 2 := rfl
@[simp] theorem advance_sp : (s.advance).sp = s.sp := rfl
@[simp] theorem advance_stack : (s.advance).stack = s.stack := rfl
@[simp] theorem advance_dt : (s.advance).dt = s.dt := rfl
@[simp] theorem advance_st : (s.advance).st = s.st := rfl
@[simp] theorem advance_display : (s.advance).display = s.display := rfl
@[simp] theorem advance_dirty : (s.advance).dirty = s.dirty := rfl
@[simp] theorem advance_key : (s.advance).key = s.key := rfl
@[simp] theorem advance_mem : (s.advance).mem = s.mem := rfl
@[simp] theorem advance_progLen : (s.advance).progLen = s.progLen := rfl
@[simp] theorem advance_wait : (s.advance).wait = s.wait := rfl
@[simp] theorem advance_wreg : (s.advance).wreg = s.wreg := rfl
@[simp] theorem advance_fault : (s.advance).fault = s.fault := rfl
@[simp] theorem advance_cfg : (s.advance).cfg = s.cfg := rfl
@[simp] theorem advance_rngPos : (s.advance).rngPos = s.rngPos := rfl

/-! ### skipIf -/

@[simp] theorem skipIf_v (c : Bool) : (s.skipIf c).v = s.v := rfl
@[simp] theorem skipIf_i (c : Bool) : (s.skipIf c).i = s.i := rfl
@[simp] theorem skipIf_pc (c : Bool) : (s.skipIf c).pc = if c then s.pc + 4 else s.pc + 2 := rfl
@[simp] theorem skipIf_sp (c : Bool) : (s.skipIf c).sp = s.sp := rfl
@[simp] theorem skipIf_stack (c : Bool) : (s.skipIf c).stack = s.stack := rfl
@[simp] theorem skipIf_dt (c : Bool) : (s.skipIf c).dt = s.dt := rfl
@[simp] theorem skipIf_st (c : Bool) : (s.skipIf c).st = s.st := rfl
@[simp] theorem skipIf_display (c : Bool) : (s.skipIf c).display = s.display := rfl
@[simp] theorem skipIf_dirty (c : Bool) : (s.skipIf c).dirty = s.dirty := rfl
@[simp] theorem skipIf_key (c : Bool) : (s.skipIf c).key = s.key := rfl
@[simp] theorem skipIf_mem (c : Bool) : (s.skipIf c).mem = s.mem := rfl
@[simp] theorem skipIf_progLen (c : Bool) : (s.skipIf c).progLen = s.progLen := rfl
@[simp] theorem skipIf_wait (c : Bool) : (s.skipIf c).wait = s.wait := rfl
@[simp] theorem skipIf_wreg (c : Bool) : (s.skipIf c).wreg = s.wreg := rfl
@[simp] theorem skipIf_fault (c : Bool) : (s.skipIf c).fault = s.fault := rfl
@[simp] theorem skipIf_cfg (c : Bool) : (s.skipIf c).cfg = s.cfg := rfl
@[simp] theorem skipIf_rngPos (c : Bool) : (s.skipIf c).rngPos = s.rngPos := rfl

/-! ### writeByte -/

@[simp] theorem writeByte_v (a : Nat) (b : Byte) : (s.writeByte a b).v = s.v := rfl
@[simp] theorem writeByte_i (a : Nat) (b : Byte) : (s.writeByte a b).i = s.i := rfl
@[simp] theorem writeByte_pc (a : Nat) (b : Byte) : (s.writeByte a b).pc = s.pc := rfl
@[simp] theorem writeByte_sp (a : Nat) (b : Byte) : (s.writeByte a b).sp = s.sp := rfl
@[simp] theorem writeByte_stack (a : Nat) (b : Byte) : (s.writeByte a b).stack = s.stack := rfl
@[simp] theorem writeByte_dt (a : Nat) (b : Byte) : (s.writeByte a b).dt = s.dt := rfl
@[simp] theorem writeByte_st (a : Nat) (b : Byte) : (s.writeByte a b).st = s.st := rfl
@[simp] theorem writeByte_display (a : Nat) (b : Byte) : (s.writeByte a b).display = s.display := rfl
@[simp] theorem writeByte_dirty (a : Nat) (b : Byte) : (s.writeByte a b).dirty = s.dirty := rfl
@[simp] theorem writeByte_key (a : Nat) (b : Byte) : (s.writeByte a b).key = s.key := rfl
@[simp] theorem writeByte_mem (a : Nat) (b : Byte) : (s.writeByte a b).mem = Memory.write s.cfg s.mem a b := rfl
@[simp] theorem writeByte_progLen (a : Nat) (b : Byte) : (s.writeByte a b).progLen = s.progLen := rfl
@[simp] theorem writeByte_wait (a : Nat) (b : Byte) : (s.writeByte a b).wait = s.wait := rfl
@[simp] theorem writeByte_wreg (a : Nat) (b : Byte) : (s.writeByte a b).wreg = s.wreg := rfl
@[simp] theorem writeByte_fault (a : Nat) (b : Byte) : (s.writeByte a b).fault = s.fault := rfl
@[simp] theorem writeByte_cfg (a : Nat) (b : Byte) : (s.writeByte a b).cfg = s.cfg := rfl
@[simp] theorem writeByte_rngPos (a : Nat) (b : Byte) : (s.writeByte a b).rngPos = s.rngPos := rfl

/-! ### writeBytes -/

@[simp] theorem writeBytes_v (a : Nat) (bs : List Byte) : (s.writeBytes a bs).v = s.v := rfl
@[simp] theorem writeBytes_i (a : Nat) (bs : List Byte) : (s.writeBytes a bs).i = s.i := rfl
@[simp] theorem writeBytes_pc (a : Nat) (bs : List Byte) : (s.writeBytes a bs).pc = s.pc := rfl
@[simp] theorem writeBytes_sp (a : Nat) (bs : List Byte) : (s.writeBytes a bs).sp = s.sp := rfl
@[simp] theorem writeBytes_stack (a : Nat) (bs : List Byte) : (s.writeBytes a bs).stack = s.stack := rfl
@[simp] theorem writeBytes_dt (a : Nat) (bs : List Byte) : (s.writeBytes a bs).dt = s.dt := rfl
@[simp] theorem writeBytes_st (a : Nat) (bs : List Byte) : (s.writeBytes a bs).st = s.st := rfl
@[simp] theorem writeBytes_display (a : Nat) (bs : List Byte) : (s.writeBytes a bs).display = s.display := rfl
@[simp] theorem writeBytes_dirty (a : Nat) (bs : List Byte) : (s.writeBytes a bs).dirty = s.dirty := rfl
@[simp] theorem writeBytes_key (a : Nat) (bs : List Byte) : (s.writeBytes a bs).key = s.key := rfl
@[simp] theorem writeBytes_mem (a : Nat) (bs : List Byte) : (s.writeBytes a bs).mem = Memory.writeAll s.cfg s.mem a bs := rfl
@[simp] theorem writeBytes_progLen (a : Nat) (bs : List Byte) : (s.writeBytes a bs).progLen = s.progLen := rfl
@[simp] theorem writeBytes_wait (a : Nat) (bs : List Byte) : (s.writeBytes a bs).wait = s.wait := rfl
@[simp] theorem writeBytes_wreg (a : Nat) (bs : List Byte) : (s.writeBytes a bs).wreg = s.wreg := rfl
@[simp] theorem writeBytes_fault (a : Nat) (bs : List Byte) : (s.writeBytes a bs).fault = s.fault := rfl
@[simp] theorem writeBytes_cfg (a : Nat) (bs : List Byte) : (s.writeBytes a bs).cfg = s.cfg := rfl
@[simp] theorem writeBytes_rngPos (a : Nat) (bs : List Byte) : (s.writeBytes a bs).rngPos = s.rngPos := rfl

/-! ### setLogic -/

@[simp] theorem setLogic_i (x : RegIx) (b : Byte) : (s.setLogic x b).i = s.i := by
  unfold State.setLogic; split <;> rfl
@[simp] theorem setLogic_pc (x : RegIx) (b : Byte) : (s.setLogic x b).pc = s.pc := by
  unfold State.setLogic; split <;> rfl
@[simp] theorem setLogic_sp (x : RegIx) (b : Byte) : (s.setLogic x b).sp = s.sp := by
  unfold State.setLogic; split <;> rfl
@[simp] theorem setLogic_stack (x : RegIx) (b : Byte) : (s.setLogic x b).stack = s.stack := by
  unfold State.setLogic; split <;> rfl
@[simp] theorem setLogic_dt (x : RegIx) (b : Byte) : (s.setLogic x b).dt = s.dt := by
  unfold State.setLogic; split <;> rfl
@[simp] theorem setLogic_st (x : RegIx) (b : Byte) : (s.setLogic x b).st = s.st := by
  unfold State.setLogic; split <;> rfl
@[simp] theorem setLogic_display (x : RegIx) (b : Byte) : (s.setLogic x b).display = s.display := by
  unfold State.setLogic; split <;> rfl
@[simp] theorem setLogic_dirty (x : RegIx) (b : Byte) : (s.setLogic x b).dirty = s.dirty := by
  unfold State.setLogic; split <;> rfl
@[simp] theorem setLogic_key (x : RegIx) (b : Byte) : (s.setLogic x b).key = s.key := by
  unfold State.setLogic; split <;> rfl
@[simp] theorem setLogic_mem (x : RegIx) (b : Byte) : (s.setLogic x b).mem = s.mem := by
  unfold State.setLogic; split <;> rfl
@[simp] theorem setLogic_progLen (x : RegIx) (b : Byte) : (s.setLogic x b).progLen = s.progLen := by
  unfold State.setLogic; split <;> rfl
@[simp] theorem setLogic_wait (x : RegIx) (b : Byte) : (s.setLogic x b).wait = s.wait := by
  unfold State.setLogic; split <;> rfl
@[simp] theorem setLogic_wreg (x : RegIx) (b : Byte) : (s.setLogic x b).wreg = s.wreg := by
  unfold State.setLogic; split <;> rfl
@[simp] theorem setLogic_fault (x : RegIx) (b : Byte) : (s.setLogic x b).fault = s.fault := by
  unfold State.setLogic; split <;> rfl
@[simp] theorem setLogic_cfg (x : RegIx) (b : Byte) : (s.setLogic x b).cfg = s.cfg := by
  unfold State.setLogic; split <;> rfl
@[simp] theorem setLogic_rngPos (x : RegIx) (b : Byte) : (s.setLogic x b).rngPos = s.rngPos := by
  unfold State.setLogic; split <;> rfl

/-! ### drawByte -/

@[simp] theorem drawByte_v : ((drawByte s).2).v = s.v := rfl
@[simp] theorem drawByte_i : ((drawByte s).2).i = s.i := rfl
@[simp] theorem drawByte_pc : ((drawByte s).2).pc = s.pc := rfl
@[simp] theorem drawByte_sp : ((drawByte s).2).sp = s.sp := rfl
@[simp] theorem drawByte_stack : ((drawByte s).2).stack = s.stack := rfl
@[simp] theorem drawByte_dt : ((drawByte s).2).dt = s.dt := rfl
@[simp] theorem drawByte_st : ((drawByte s).2).st = s.st := rfl
@[simp] theorem drawByte_display : ((drawByte s).2).display = s.display := rfl
@[simp] theorem drawByte_dirty : ((drawByte s).2).dirty = s.dirty := rfl
@[simp] theorem drawByte_key : ((drawByte s).2).key = s.key := rfl
@[simp] theorem drawByte_mem : ((drawByte s).2).mem = s.mem := rfl
@[simp] theorem drawByte_progLen : ((drawByte s).2).progLen = s.progLen := rfl
@[simp] theorem drawByte_wait : ((drawByte s).2).wait = s.wait := rfl
@[simp] theorem drawByte_wreg : ((drawByte s).2).wreg = s.wreg := rfl
@[simp] theorem drawByte_fault : ((drawByte s).2).fault = s.fault := rfl
@[simp] theorem drawByte_cfg : ((drawByte s).2).cfg = s.cfg := rfl
@[simp] theorem drawByte_rngPos : ((drawByte s).2).rngPos = s.rngPos + 1 := rfl

/-! ### tickTimers -/

@[simp] theorem tickTimers_v : (tickTimers s).v = s.v := rfl
@[simp] theorem tickTimers_i : (tickTimers s).i = s.i := rfl
@[simp] theorem tickTimers_pc : (tickTimers s).pc = s.pc := rfl
@[simp] theorem tickTimers_sp : (tickTimers s).sp = s.sp := rfl
@[simp] theorem tickTimers_stack : (tickTimers s).stack = s.stack := rfl
@[simp] theorem tickTimers_dt : (tickTimers s).dt = countDown s.dt := rfl
@[simp] theorem tickTimers_st : (tickTimers s).st = countDown s.st := rfl
@[simp] theorem tickTimers_display : (tickTimers s).display = s.display := rfl
@[simp] theorem tickTimers_dirty : (tickTimers s).dirty = s.dirty := rfl
@[simp] theorem tickTimers_key : (tickTimers s).key = s.key := rfl
@[simp] theorem tickTimers_mem : (tickTimers s).mem = s.mem := rfl
@[simp] theorem tickTimers_progLen : (tickTimers s).progLen = s.progLen := rfl
@[simp] theorem tickTimers_wait : (tickTimers s).wait = s.wait := rfl
@[simp] theorem tickTimers_wreg : (tickTimers s).wreg = s.wreg := rfl
@[simp] theorem tickTimers_fault : (tickTimers s).fault = s.fault := rfl
@[simp] theorem tickTimers_cfg : (tickTimers s).cfg = s.cfg := rfl
@[simp] theorem tickTimers_rngPos : (tickTimers s).rngPos = s.rngPos := rfl

/-! ### readDisplay -/

@[simp] theorem readDisplay_v : ((readDisplay s).2).v = s.v := rfl
@[simp] theorem readDisplay_i : ((readDisplay s).2).i = s.i := rfl
@[simp] theorem readDisplay_pc : ((readDisplay s).2).pc = s.pc := rfl
@[simp] theorem readDisplay_sp : ((readDisplay s).2).sp = s.sp := rfl
@[simp] theorem readDisplay_stack : ((readDisplay s).2).stack = s.stack := rfl
@[simp] theorem readDisplay_dt : ((readDisplay s).2).dt = s.dt := rfl
@[simp] theorem readDisplay_st : ((readDisplay s).2).st = s.st := rfl
@[simp] theorem readDisplay_display : ((readDisplay s).2).display = s.display := rfl
@[simp] theorem readDisplay_dirty : ((readDisplay s).2).dirty = false := rfl
@[simp] theorem readDisplay_key : ((readDisplay s).2).key = s.key := rfl
@[simp] theorem readDisplay_mem : ((readDisplay s).2).mem = s.mem := rfl
@[simp] theorem readDisplay_progLen : ((readDisplay s).2).progLen = s.progLen := rfl
@[simp] theorem readDisplay_wait : ((readDisplay s).2).wait = s.wait := rfl
@[simp] theorem readDisplay_wreg : ((readDisplay s).2).wreg = s.wreg := rfl
@[simp] theorem readDisplay_fault : ((readDisplay s).2).fault = s.fault := rfl
@[simp] theorem readDisplay_cfg : ((readDisplay s).2).cfg = s.cfg := rfl
@[simp] theorem readDisplay_rngPos : ((readDisplay s).2).rngPos = s.rngPos := rfl

end Sys2Proof.Machine
end

