-- ==== Sys2Proof/Laws/Ops.lean ====
section
/-! SUPPORT. One specification lemma for each shared operation: all it can do. -/

namespace Sys2Proof.Machine

variable (s : State)

/-! ### Registers (R10, R119) -/

@[simp] theorem reg_setReg (x r : RegIx) (b : Byte) : (s.setReg x b).reg r = if r = x then b else s.reg r := by
  simp only [State.reg, setReg_v, Vector.getElem_set, Fin.ext_iff, eq_comm]

@[simp] theorem reg_setFlag (f : Bool) (r : RegIx) :
    (s.setFlag f).reg r = if r = 15 then (if f then 1 else 0) else s.reg r := by
  simp [State.setFlag]

/-- VF ends as the flag; VX, unless it is VF, as the result (R119). -/
@[simp] theorem reg_setRegFlag (x r : RegIx) (b : Byte) (f : Bool) :
    (s.setRegFlag x b f).reg r = if r = 15 then (if f then 1 else 0) else if r = x then b else s.reg r := by
  simp [State.setRegFlag]

@[simp] theorem reg_setLogic (x r : RegIx) (b : Byte) :
    (s.setLogic x b).reg r =
      if s.cfg.logicResetsVF = true ∧ r = 15 then 0 else if r = x then b else s.reg r := by
  unfold State.setLogic
  by_cases h : s.cfg.logicResetsVF <;> simp [h]

@[simp] theorem reg_loadRegsFrom (x r : RegIx) (a : Nat) :
    (s.loadRegsFrom x a).reg r = if r ≤ x then s.readByte (a + r.val) else s.reg r := by
  simp [State.reg, State.loadRegsFrom, State.readByte]

@[simp] theorem reg_setI (w : Word) (r : RegIx) : (s.setI w).reg r = s.reg r := rfl
@[simp] theorem reg_setDT (b : Byte) (r : RegIx) : (s.setDT b).reg r = s.reg r := rfl
@[simp] theorem reg_setST (b : Byte) (r : RegIx) : (s.setST b).reg r = s.reg r := rfl
@[simp] theorem reg_jump (w : Word) (r : RegIx) : (s.jump w).reg r = s.reg r := rfl
@[simp] theorem reg_advance (r : RegIx) : s.advance.reg r = s.reg r := rfl
@[simp] theorem reg_skipIf (c : Bool) (r : RegIx) : (s.skipIf c).reg r = s.reg r := rfl
@[simp] theorem reg_writeBytes (a : Nat) (bs : List Byte) (r : RegIx) : (s.writeBytes a bs).reg r = s.reg r := rfl
@[simp] theorem reg_drawByte (r : RegIx) : (drawByte s).2.reg r = s.reg r := rfl

theorem length_regsUpTo (x : RegIx) : (s.regsUpTo x).length = x.val + 1 := by
  simp [State.regsUpTo]

theorem getElem_regsUpTo (x : RegIx) (k : Nat) (h : k < (s.regsUpTo x).length) :
    (s.regsUpTo x)[k] = s.reg ⟨k, by rw [length_regsUpTo] at h; omega⟩ := by
  simp [State.regsUpTo, State.reg]

/-! ### Memory (R45, R46, R48) -/

theorem readByte_eq (a : Nat) : s.readByte a = Memory.read s.cfg s.mem a := rfl

/-- What a read gives after bytes are stored: the byte stored there, or what it gave before (R46). -/
theorem readByte_writeBytes (a : Nat) (bs : List Byte) (a' : Nat) :
    (s.writeBytes a bs).readByte a' = if h : a ≤ a' ∧ a' < a + bs.length then bs[a' - a] else s.readByte a' := by
  simp [State.readByte, Memory.read_writeAll]

@[simp] theorem readByte_setReg (x : RegIx) (b : Byte) (a : Nat) : (s.setReg x b).readByte a = s.readByte a := rfl
@[simp] theorem readByte_setFlag (f : Bool) (a : Nat) : (s.setFlag f).readByte a = s.readByte a := rfl
@[simp] theorem readByte_setRegFlag (x : RegIx) (b : Byte) (f : Bool) (a : Nat) :
    (s.setRegFlag x b f).readByte a = s.readByte a := rfl
@[simp] theorem readByte_setLogic (x : RegIx) (b : Byte) (a : Nat) : (s.setLogic x b).readByte a = s.readByte a := by
  simp [readByte_eq]
@[simp] theorem readByte_loadRegsFrom (x : RegIx) (a a' : Nat) :
    (s.loadRegsFrom x a).readByte a' = s.readByte a' := rfl
@[simp] theorem readByte_setI (w : Word) (a : Nat) : (s.setI w).readByte a = s.readByte a := rfl
@[simp] theorem readByte_setDT (b : Byte) (a : Nat) : (s.setDT b).readByte a = s.readByte a := rfl
@[simp] theorem readByte_setST (b : Byte) (a : Nat) : (s.setST b).readByte a = s.readByte a := rfl
@[simp] theorem readByte_jump (w : Word) (a : Nat) : (s.jump w).readByte a = s.readByte a := rfl
@[simp] theorem readByte_advance (a : Nat) : s.advance.readByte a = s.readByte a := rfl
@[simp] theorem readByte_skipIf (c : Bool) (a : Nat) : (s.skipIf c).readByte a = s.readByte a := rfl
@[simp] theorem readByte_drawByte (a : Nat) : (drawByte s).2.readByte a = s.readByte a := rfl

@[simp] theorem length_readBytes (a n : Nat) : (s.readBytes a n).length = n := by
  induction n generalizing a with
  | zero => rfl
  | succ n ih => simp [State.readBytes, ih]

theorem getElem_readBytes (a n k : Nat) (h : k < (s.readBytes a n).length) :
    (s.readBytes a n)[k] = s.readByte (a + k) := by
  induction n generalizing a k with
  | zero => simp [State.readBytes] at h
  | succ n ih =>
    cases k with
    | zero => simp [State.readBytes]
    | succ k =>
      simp only [State.readBytes, List.getElem_cons_succ]
      rw [ih, show a + 1 + k = a + (k + 1) by omega]

theorem inMemory_iff (a : Nat) : inMemory a = true ↔ a < 4096 := decide_eq_true_iff

/-! ### The call stack (R21, R82, R83) -/

/-- A push answers nothing at depth 16, and below it the state with the value on top. -/
theorem push_spec (w : Word) (t : State) :
    s.push w = some t ↔ ∃ h : s.sp.val < 16,
      t = { s with stack := s.stack.set s.sp.val w, sp := ⟨s.sp.val + 1, by omega⟩ } := by
  unfold State.push
  split
  · next h => simp [h, eq_comm]
  · next h => simp [h]

theorem push_none (w : Word) : s.push w = none ↔ s.sp.val = 16 := by
  unfold State.push
  split
  · next h => simp; omega
  · next h => simp; omega

/-- A pop answers nothing at depth 0, and above it the top value and the state with SP one lower. -/
theorem pop_spec (w : Word) (t : State) :
    s.pop = some (w, t) ↔ ∃ h : 0 < s.sp.val,
      w = s.stack[s.sp.val - 1] ∧ t = { s with sp := ⟨s.sp.val - 1, by omega⟩ } := by
  unfold State.pop
  split
  · next h => simp [h, eq_comm]
  · next h => simp [h]

theorem pop_none : s.pop = none ↔ s.sp.val = 0 := by
  unfold State.pop
  split
  · next h => simp; omega
  · next h => simp; omega

/-! ### Faults (R163) -/

/-- Fault entry answers a next state that differs in FAULT alone. -/
theorem takeFault_eq (k : Fault) : takeFault k s = .next { s with fault := some k } := rfl

end Sys2Proof.Machine
end

