-- ==== Sys2Proof/Laws/Exec.lean ====
section
/-! SUPPORT. The meanings that can raise a fault, each as its condition, its completed state and its fault; and what every
execution answers. -/

namespace Sys2Proof.Machine

/-- 00EE completes on a stack that is not empty (R83). -/
theorem exec_ret (s : State) : exec .ret s =
    if h : 0 < s.sp.val then
      .next { s with sp := ⟨s.sp.val - 1, by omega⟩, pc := s.stack[s.sp.val - 1] }
    else .next { s with fault := some .stackUnderflow } := by
  show execRet s = _
  unfold execRet State.pop
  by_cases h : 0 < s.sp.val
  · rw [dif_pos h, dif_pos h]; rfl
  · rw [dif_neg h, dif_neg h]; rfl

/-- 2NNN completes below depth 16 (R82). -/
theorem exec_call (nnn : Addr12) (s : State) : exec (.call nnn) s =
    if h : s.sp.val < 16 then
      .next { s with stack := s.stack.set s.sp.val (s.pc + 2), sp := ⟨s.sp.val + 1, by omega⟩, pc := absolute nnn }
    else .next { s with fault := some .stackOverflow } := by
  show execCall nnn s = _
  unfold execCall State.push
  by_cases h : s.sp.val < 16
  · rw [dif_pos h, dif_pos h]; rfl
  · rw [dif_neg h, dif_neg h]; rfl

/-- FX55 completes when its last byte is in memory (R107). -/
theorem exec_storeRegs (x : RegIx) (s : State) : exec (.storeRegs x) s =
    if s.i.toNat + x.val < 4096 then .next (s.writeBytes s.i.toNat (s.regsUpTo x)).advance
    else .next { s with fault := some .memoryFault } := by
  show execStoreRegs x s = _
  simp only [execStoreRegs, inMemory_iff, State.addrI, Nat.add_zero, takeFault]

/-- FX65 completes when its last byte is in memory (R108). -/
theorem exec_loadRegs (x : RegIx) (s : State) : exec (.loadRegs x) s =
    if s.i.toNat + x.val < 4096 then .next (s.loadRegsFrom x s.i.toNat).advance
    else .next { s with fault := some .memoryFault } := by
  show execLoadRegs x s = _
  simp only [execLoadRegs, inMemory_iff, State.addrI, Nat.add_zero, takeFault]

/-- FX33 completes when its last byte is in memory (R133). -/
theorem exec_ldBCD (x : RegIx) (s : State) : exec (.ldBCD x) s =
    if s.i.toNat + 2 < 4096 then .next (s.writeBytes s.i.toNat (decimalDigits (s.reg x))).advance
    else .next { s with fault := some .memoryFault } := by
  show execLdBCD x s = _
  simp only [execLdBCD, inMemory_iff, State.addrI, Nat.add_zero, takeFault]

/-- DXYN completes when it has no row or its last byte is in memory (R135, R140). -/
theorem exec_drw (x y : RegIx) (n : Fin 16) (s : State) : exec (.drw x y n) s =
    if n.val = 0 ∨ s.i.toNat + (n.val - 1) < 4096 then
      .next ({ s with
        display := (drawSprite (s.reg x) (s.reg y) (spriteBytes s n) s.display).1
        dirty := true }.setFlag (drawSprite (s.reg x) (s.reg y) (spriteBytes s n) s.display).2).advance
    else .next { s with fault := some .memoryFault } := by
  show execDrw x y n s = _
  simp only [execDrw, inMemory_iff, State.addrI, takeFault]

/-- FX1E completes when it is enabled (R112). -/
theorem exec_addI (x : RegIx) (s : State) : exec (.addI x) s =
    if s.cfg.enableFX1E = true then
      .next (s.setI (BitVec.ofNat 16 (s.i.toNat + (s.reg x).toNat))).advance
    else .next { s with fault := some .invalidOpcode } := rfl

/-- 0NNN never completes (R150). -/
theorem exec_sys (nnn : Addr12) (s : State) : exec (.sys nnn) s = .next { s with fault := some .invalidOpcode } := rfl

/-- Every instruction answers a next state, in every state: none stops the machine and none is refused. -/
theorem exec_total (i : Instr) (s : State) : ∃ t, exec i s = .next t := by
  cases i with
  | ret => rw [exec_ret]; split <;> exact ⟨_, rfl⟩
  | call => rw [exec_call]; split <;> exact ⟨_, rfl⟩
  | storeRegs => rw [exec_storeRegs]; split <;> exact ⟨_, rfl⟩
  | loadRegs => rw [exec_loadRegs]; split <;> exact ⟨_, rfl⟩
  | ldBCD => rw [exec_ldBCD]; split <;> exact ⟨_, rfl⟩
  | drw => rw [exec_drw]; split <;> exact ⟨_, rfl⟩
  | addI => rw [exec_addI]; split <;> exact ⟨_, rfl⟩
  | _ => exact ⟨_, rfl⟩

/-- What a step can do: answer the latched fault, stay in a key wait, raise a fault at fetch or decode, or execute. -/
theorem step_cases (s : State) :
    (∃ k, s.fault = some k ∧ step s = .fault k) ∨
    (s.fault = none ∧ s.wait = true ∧ step s = .next s) ∨
    (s.fault = none ∧ s.wait = false ∧ ∃ k, fetchInstr s = .error k ∧ step s = .next { s with fault := some k }) ∨
    (s.fault = none ∧ s.wait = false ∧ ∃ i, fetchInstr s = .ok i ∧ step s = exec i s) := by
  unfold step
  cases hf : s.fault with
  | some k => exact .inl ⟨k, rfl, rfl⟩
  | none =>
    by_cases hw : s.wait = true
    · exact .inr (.inl ⟨rfl, hw, if_pos hw⟩)
    · have hw' : s.wait = false := by simpa using hw
      cases hi : fetchInstr s with
      | error k => exact .inr (.inr (.inl ⟨rfl, hw', k, rfl, if_neg hw⟩))
      | ok i => exact .inr (.inr (.inr ⟨rfl, hw', i, rfl, if_neg hw⟩))

/-- What a fetch answers: an instruction only from a word both of whose bytes are in memory (R47, R64). -/
theorem fetchInstr_ok (s : State) (i : Instr) :
    fetchInstr s = .ok i ↔ s.pc.toNat + 1 < 4096 ∧ decode s.wordAtPC = .ok i := by
  unfold fetchInstr State.canFetch
  by_cases h : s.pc.toNat + 1 < 4096
  · rw [if_pos ((inMemory_iff _).2 h)]
    cases decode s.wordAtPC <;> simp [h]
  · rw [if_neg (fun e => h ((inMemory_iff _).1 e))]
    simp [h]

/-- The fault a fetch raises: MemoryFault out of bounds, InvalidOpcode on a word that is no instruction (R47, R162). -/
theorem fetchInstr_error (s : State) (k : Fault) :
    fetchInstr s = .error k ↔
      (4096 ≤ s.pc.toNat + 1 ∧ k = .memoryFault) ∨
      (s.pc.toNat + 1 < 4096 ∧ (∃ e, decode s.wordAtPC = .error e) ∧ k = .invalidOpcode) := by
  unfold fetchInstr State.canFetch
  by_cases h : s.pc.toNat + 1 < 4096
  · rw [if_pos ((inMemory_iff _).2 h)]
    have : ¬ 4096 ≤ s.pc.toNat + 1 := by omega
    cases decode s.wordAtPC <;> simp [h, this, eq_comm]
  · rw [if_neg (fun e => h ((inMemory_iff _).1 e))]
    have : 4096 ≤ s.pc.toNat + 1 := by omega
    simp [h, this, eq_comm]

end Sys2Proof.Machine
end

