-- ==== Sys2Proof/Laws/PerInstr.lean ====
section
/-! SUPPORT. Statements made per instruction: the family `EncodesItsRow`, that an instruction's word selects the row of
R66 the instruction stands in. -/

namespace Sys2Proof.Laws.EncodesItsRow

open Sys2Proof

/-- The word of `i` selects its own row of R66: `op & mask = match`. -/
def Statement (i : Instr) : Prop := encode i &&& i.matchMask.2 = i.matchMask.1

theorem cls : Statement .cls := by unfold Statement; decide
theorem ret : Statement .ret := by unfold Statement; decide
theorem jp (nnn : Addr12) : Statement (.jp nnn) := encodeNNN_masked (by decide) nnn
theorem call (nnn : Addr12) : Statement (.call nnn) := encodeNNN_masked (by decide) nnn
theorem jpV0 (nnn : Addr12) : Statement (.jpV0 nnn) := encodeNNN_masked (by decide) nnn
theorem seImm (x : RegIx) (nn : Byte) : Statement (.seImm x nn) := encodeXNN_masked (by decide) x nn
theorem sneImm (x : RegIx) (nn : Byte) : Statement (.sneImm x nn) := encodeXNN_masked (by decide) x nn
theorem seReg (x y : RegIx) : Statement (.seReg x y) := encodeXYN_masked_nibble (by decide) x y _
theorem sneReg (x y : RegIx) : Statement (.sneReg x y) := encodeXYN_masked_nibble (by decide) x y _
theorem skp (x : RegIx) : Statement (.skp x) := encodeXNN_masked_byte (by decide) x _
theorem sknp (x : RegIx) : Statement (.sknp x) := encodeXNN_masked_byte (by decide) x _
theorem ldImm (x : RegIx) (nn : Byte) : Statement (.ldImm x nn) := encodeXNN_masked (by decide) x nn
theorem ldReg (x y : RegIx) : Statement (.ldReg x y) := encodeXYN_masked_nibble (by decide) x y _
theorem ldI (nnn : Addr12) : Statement (.ldI nnn) := encodeNNN_masked (by decide) nnn
theorem ldFromDT (x : RegIx) : Statement (.ldFromDT x) := encodeXNN_masked_byte (by decide) x _
theorem ldDT (x : RegIx) : Statement (.ldDT x) := encodeXNN_masked_byte (by decide) x _
theorem ldST (x : RegIx) : Statement (.ldST x) := encodeXNN_masked_byte (by decide) x _
theorem ldFont (x : RegIx) : Statement (.ldFont x) := encodeXNN_masked_byte (by decide) x _
theorem storeRegs (x : RegIx) : Statement (.storeRegs x) := encodeXNN_masked_byte (by decide) x _
theorem loadRegs (x : RegIx) : Statement (.loadRegs x) := encodeXNN_masked_byte (by decide) x _
theorem addImm (x : RegIx) (nn : Byte) : Statement (.addImm x nn) := encodeXNN_masked (by decide) x nn
theorem addReg (x y : RegIx) : Statement (.addReg x y) := encodeXYN_masked_nibble (by decide) x y _
theorem sub (x y : RegIx) : Statement (.sub x y) := encodeXYN_masked_nibble (by decide) x y _
theorem subn (x y : RegIx) : Statement (.subn x y) := encodeXYN_masked_nibble (by decide) x y _
theorem orReg (x y : RegIx) : Statement (.orReg x y) := encodeXYN_masked_nibble (by decide) x y _
theorem andReg (x y : RegIx) : Statement (.andReg x y) := encodeXYN_masked_nibble (by decide) x y _
theorem xorReg (x y : RegIx) : Statement (.xorReg x y) := encodeXYN_masked_nibble (by decide) x y _
theorem shr (x y : RegIx) : Statement (.shr x y) := encodeXYN_masked_nibble (by decide) x y _
theorem shl (x y : RegIx) : Statement (.shl x y) := encodeXYN_masked_nibble (by decide) x y _
theorem rnd (x : RegIx) (nn : Byte) : Statement (.rnd x nn) := encodeXNN_masked (by decide) x nn
theorem ldBCD (x : RegIx) : Statement (.ldBCD x) := encodeXNN_masked_byte (by decide) x _
theorem drw (x y : RegIx) (n : Fin 16) : Statement (.drw x y n) := encodeXYN_masked (by decide) x y n
theorem waitKey (x : RegIx) : Statement (.waitKey x) := encodeXNN_masked_byte (by decide) x _
theorem sys (nnn : Addr12) : Statement (.sys nnn) := encodeNNN_masked (by decide) nnn
theorem addI (x : RegIx) : Statement (.addI x) := encodeXNN_masked_byte (by decide) x _

end Sys2Proof.Laws.EncodesItsRow
end

