-- ==== Sys2Proof/Laws/Sprite.lean ====
section
/-! SUPPORT. What the sprite compositor does, as a formula: the pixels it flips and the collision flag (R135 to R138). -/

namespace Sys2Proof.Machine

/-! ### The pixels of a sprite as a formula (R136, R137) -/

/-- How far column `x` lies right of the sprite's left edge `x0`, around the display. -/
def spriteColumn (x0 : Byte) (x : Fin 64) : Nat := (x.val + 64 - x0.toNat % 64) % 64

/-- How far row `y` lies below the sprite's top edge `y0`, around the display. -/
def spriteRow (y0 : Byte) (y : Fin 32) : Nat := (y.val + 32 - y0.toNat % 32) % 32

/-- Whether a sprite drawn at (x0, y0) flips the pixel (x, y): the pixel lies in one of its rows and in one of its eight
columns, and that bit of that row's byte is 1, bit 7 leftmost. -/
def spriteFlips (x0 y0 : Byte) (sprite : List Byte) (x : Fin 64) (y : Fin 32) : Bool :=
  match sprite[spriteRow y0 y]? with
  | some b => spriteColumn x0 x < 8 && b.getLsbD (7 - spriteColumn x0 x)
  | none => false

variable (x0 y0 : Byte)

/-! ### One pixel -/

theorem pixel_flip (d : Display) (x x' : Fin 64) (y y' : Fin 32) :
    Display.pixel (Display.flip d x y) x' y' = (Display.pixel d x' y' ^^ (decide (x' = x) && decide (y' = y))) := by
  unfold Display.pixel Display.flip
  by_cases hy : y' = y
  · subst hy
    by_cases hx : x' = x
    · subst hx; simp [Display.pixel]
    · have : x.val ≠ x'.val := fun h => hx (Fin.ext h.symm)
      simp [hx, this]
  · have : y.val ≠ y'.val := fun h => hy (Fin.ext h.symm)
    simp [hy, this]

/-- The column `c` of a sprite lands on `x` exactly when `x` lies `c` to the right of the left edge. -/
theorem column_hits (x : Fin 64) {c : Nat} (hc : c < 64) : x = Fin.ofNat 64 (x0.toNat + c) ↔ spriteColumn x0 x = c := by
  have := x.isLt
  simp only [Fin.ext_iff, Fin.ofNat, spriteColumn]
  omega

/-- The row `r` of a sprite lands on `y` exactly when `y` lies `r` below the top edge. -/
theorem row_hits (y : Fin 32) {r : Nat} (hr : r < 32) : y = Fin.ofNat 32 (y0.toNat + r) ↔ spriteRow y0 y = r := by
  have := y.isLt
  simp only [Fin.ext_iff, Fin.ofNat, spriteRow]
  omega

/-! ### The pixels that rows flip -/

/-- Whether the columns before `k` of the sprite row `r`, whose byte is `b`, flip the pixel (x, y). -/
def columnsFlip (r : Nat) (b : Byte) (k : Nat) (x : Fin 64) (y : Fin 32) : Bool :=
  decide (spriteRow y0 y = r) && (decide (spriteColumn x0 x < k) && b.getLsbD (7 - spriteColumn x0 x))

/-- Whether the sprite rows from row `r` on flip the pixel (x, y). -/
def rowsFlip (r : Nat) (bs : List Byte) (x : Fin 64) (y : Fin 32) : Bool :=
  decide (r ≤ spriteRow y0 y) &&
    match bs[spriteRow y0 y - r]? with
    | some b => decide (spriteColumn x0 x < 8) && b.getLsbD (7 - spriteColumn x0 x)
    | none => false

theorem columnsFlip_succ (r : Nat) (b : Byte) (k : Nat) (x : Fin 64) (y : Fin 32) :
    columnsFlip x0 y0 r b (k + 1) x y =
      (columnsFlip x0 y0 r b k x y ^^
        (b.getLsbD (7 - k) && (decide (spriteColumn x0 x = k) && decide (spriteRow y0 y = r)))) := by
  unfold columnsFlip
  by_cases hr : spriteRow y0 y = r <;> by_cases hk : spriteColumn x0 x = k
  · simp [hr, hk]
  · have : spriteColumn x0 x < k + 1 ↔ spriteColumn x0 x < k := by omega
    simp [hr, hk, this]
  · simp [hr]
  · simp [hr]

theorem rowsFlip_cons (r : Nat) (b : Byte) (bs : List Byte) (x : Fin 64) (y : Fin 32) :
    rowsFlip x0 y0 r (b :: bs) x y = (columnsFlip x0 y0 r b 8 x y ^^ rowsFlip x0 y0 (r + 1) bs x y) := by
  unfold rowsFlip columnsFlip
  by_cases hr : spriteRow y0 y = r
  · have : ¬ r + 1 ≤ r := by omega
    simp [hr]
  · by_cases hl : r ≤ spriteRow y0 y
    · have h1 : r + 1 ≤ spriteRow y0 y := by omega
      have h2 : spriteRow y0 y - r = (spriteRow y0 y - (r + 1)) + 1 := by omega
      simp [hr, hl, h1, h2]
    · have h1 : ¬ r + 1 ≤ spriteRow y0 y := by omega
      simp [hr, hl, h1]

/-- A pixel is flipped by one row of the sprite at most. -/
theorem rowsFlip_disjoint (r : Nat) (b : Byte) (bs : List Byte) (x : Fin 64) (y : Fin 32)
    (h : columnsFlip x0 y0 r b 8 x y = true) : rowsFlip x0 y0 (r + 1) bs x y = false := by
  have hr : spriteRow y0 y = r := by
    simp only [columnsFlip, Bool.and_eq_true, decide_eq_true_eq] at h
    exact h.1
  simp [rowsFlip, hr]

/-! ### Columns, rows, the sprite -/

/-- What the columns before `k` of one row do to a display and a collision flag. -/
theorem columns_spec (r : Nat) (hr : r < 32) (b : Byte) (acc : Display × Bool) (k : Nat) (hk : k ≤ 8) :
    let out := (List.range k).foldl (drawPixel x0 y0 r b) acc
    (∀ x y, Display.pixel out.1 x y = (Display.pixel acc.1 x y ^^ columnsFlip x0 y0 r b k x y)) ∧
    (out.2 = true ↔ acc.2 = true ∨ ∃ x y, Display.pixel acc.1 x y = true ∧ columnsFlip x0 y0 r b k x y = true) := by
  induction k with
  | zero => simp [columnsFlip]
  | succ k ih =>
    obtain ⟨ih1, ih2⟩ := ih (by omega)
    rw [List.range_succ, List.foldl_append]
    generalize hmid : (List.range k).foldl (drawPixel x0 y0 r b) acc = mid at ih1 ih2
    simp only [List.foldl_cons, List.foldl_nil]
    by_cases hb : b.getLsbD (7 - k)
    · simp only [drawPixel, hb, if_true]
      have hx := fun x => column_hits x0 x (show k < 64 by omega)
      have hy := fun y => row_hits y0 y hr
      generalize Fin.ofNat 64 (x0.toNat + k) = X at hx ⊢
      generalize Fin.ofNat 32 (y0.toNat + r) = Y at hy ⊢
      have hX := (hx X).1 rfl
      have hY := (hy Y).1 rfl
      refine ⟨fun x y => ?_, ?_⟩
      · rw [pixel_flip, ih1, columnsFlip_succ]
        simp only [hx, hy, hb, Bool.true_and, Bool.xor_assoc]
      · rw [Bool.or_eq_true, ih2, ih1]
        have hnot : columnsFlip x0 y0 r b k X Y = false := by simp [columnsFlip, hX]
        rw [hnot, Bool.xor_false]
        constructor
        · rintro ((h | ⟨x, y, h1, h2⟩) | h)
          · exact .inl h
          · refine .inr ⟨x, y, h1, ?_⟩
            have : spriteColumn x0 x ≠ k := by
              simp only [columnsFlip, Bool.and_eq_true, decide_eq_true_eq] at h2
              omega
            rw [columnsFlip_succ, h2]; simp [this]
          · refine .inr ⟨_, _, h, ?_⟩
            rw [columnsFlip_succ, hnot]; simp [hX, hY, hb]
        · rintro (h | ⟨x, y, h1, h2⟩)
          · exact .inl (.inl h)
          · by_cases hc : spriteColumn x0 x = k ∧ spriteRow y0 y = r
            · rw [← hx, ← hy] at hc
              exact .inr (by rw [← hc.1, ← hc.2]; exact h1)
            · refine .inl (.inr ⟨x, y, h1, ?_⟩)
              rw [columnsFlip_succ] at h2
              rcases Decidable.not_and_iff_not_or_not.1 hc with h | h <;> simpa [h] using h2
    · have hsame : ∀ x y, columnsFlip x0 y0 r b (k + 1) x y = columnsFlip x0 y0 r b k x y := fun x y => by
        rw [columnsFlip_succ]; simp [hb]
      simp only [drawPixel, hb, Bool.false_eq_true, if_false, hsame]
      exact ⟨ih1, ih2⟩

/-- What the rows from row `r` on do to a display and a collision flag. -/
theorem rows_spec (r : Nat) (bs : List Byte) (hr : r + bs.length ≤ 32) (acc : Display × Bool) :
    let out := drawRows x0 y0 r bs acc
    (∀ x y, Display.pixel out.1 x y = (Display.pixel acc.1 x y ^^ rowsFlip x0 y0 r bs x y)) ∧
    (out.2 = true ↔ acc.2 = true ∨ ∃ x y, Display.pixel acc.1 x y = true ∧ rowsFlip x0 y0 r bs x y = true) := by
  induction bs generalizing r acc with
  | nil => simp [drawRows, rowsFlip]
  | cons b bs ih =>
    simp only [List.length_cons] at hr
    obtain ⟨c1, c2⟩ := columns_spec x0 y0 r (by omega) b acc 8 (by omega)
    obtain ⟨r1, r2⟩ := ih (r + 1) (by omega) (drawRow x0 y0 r b acc)
    simp only [drawRows]
    refine ⟨fun x y => ?_, ?_⟩
    · rw [r1, rowsFlip_cons, ← Bool.xor_assoc]
      congr 1
      exact c1 x y
    · rw [r2]
      have key : ∀ x y, (Display.pixel (drawRow x0 y0 r b acc).1 x y = true ∧ rowsFlip x0 y0 (r + 1) bs x y = true) ↔
          (Display.pixel acc.1 x y = true ∧ rowsFlip x0 y0 (r + 1) bs x y = true) := by
        intro x y
        rw [show Display.pixel (drawRow x0 y0 r b acc).1 x y = _ from c1 x y]
        cases hc : columnsFlip x0 y0 r b 8 x y
        · simp
        · simp [rowsFlip_disjoint x0 y0 r b bs x y hc]
      simp only [key]
      rw [show ((drawRow x0 y0 r b acc).2 = true ↔ _) from c2]
      constructor
      · rintro ((h | ⟨x, y, h1, h2⟩) | ⟨x, y, h1, h2⟩)
        · exact .inl h
        · exact .inr ⟨x, y, h1, by rw [rowsFlip_cons, h2, rowsFlip_disjoint x0 y0 r b bs x y h2]; rfl⟩
        · refine .inr ⟨x, y, h1, ?_⟩
          rw [rowsFlip_cons, h2]
          cases hc : columnsFlip x0 y0 r b 8 x y
          · rfl
          · rw [rowsFlip_disjoint x0 y0 r b bs x y hc] at h2; cases h2
      · rintro (h | ⟨x, y, h1, h2⟩)
        · exact .inl (.inl h)
        · rw [rowsFlip_cons] at h2
          cases hc : columnsFlip x0 y0 r b 8 x y
          · exact .inr ⟨x, y, h1, by simpa [hc] using h2⟩
          · exact .inl (.inr ⟨x, y, h1, hc⟩)

theorem rowsFlip_zero (bs : List Byte) (x : Fin 64) (y : Fin 32) :
    rowsFlip x0 y0 0 bs x y = spriteFlips x0 y0 bs x y := by
  simp only [rowsFlip, spriteFlips, Nat.zero_le, decide_true, Bool.true_and, Nat.sub_zero]

/-- The sprite flips exactly the pixels of the formula, and collides exactly when one of them was set (R135, R138). -/
theorem drawSprite_spec (bs : List Byte) (hlen : bs.length ≤ 32) (d : Display) :
    (∀ x y, Display.pixel (drawSprite x0 y0 bs d).1 x y = (Display.pixel d x y ^^ spriteFlips x0 y0 bs x y)) ∧
    ((drawSprite x0 y0 bs d).2 = true ↔ ∃ x y, Display.pixel d x y = true ∧ spriteFlips x0 y0 bs x y = true) := by
  obtain ⟨h1, h2⟩ := rows_spec x0 y0 0 bs (by omega) (d, false)
  simp only [rowsFlip_zero] at h1 h2
  refine ⟨h1, ?_⟩
  rw [show drawSprite x0 y0 bs d = drawRows x0 y0 0 bs (d, false) from rfl, h2]
  simp

/-! ### In the terms of a state -/

theorem getElem?_readBytes (s : State) (a n k : Nat) :
    (s.readBytes a n)[k]? = if k < n then some (s.readByte (a + k)) else none := by
  split
  · next h =>
    rw [List.getElem?_eq_getElem (by rw [length_readBytes]; exact h), getElem_readBytes]
  · next h => exact List.getElem?_eq_none (by rw [length_readBytes]; omega)

/-- The formula is the rule's own wording. -/
theorem spriteFlips_iff (s : State) (x y : RegIx) (n : Fin 16) (px : Fin 64) (py : Fin 32) :
    spriteFlips (s.reg x) (s.reg y) (spriteBytes s n) px py = true ↔ SpriteCovers s x y n px py := by
  have hx := fun (c : Nat) (hc : c < 64) => column_hits (s.reg x) px hc
  have hy := fun (r : Nat) (hr : r < 32) => row_hits (s.reg y) py hr
  simp only [Fin.ext_iff, Fin.ofNat] at hx hy
  unfold spriteFlips spriteBytes SpriteCovers
  rw [getElem?_readBytes]
  constructor
  · intro h
    by_cases hr : spriteRow (s.reg y) py < n.val
    · simp only [hr, if_true, Bool.and_eq_true, decide_eq_true_eq] at h
      exact ⟨_, _, hr, h.1, (hx _ (by omega)).2 rfl, (hy _ (by omega)).2 rfl, h.2⟩
    · simp [hr] at h
  · rintro ⟨r, c, hr, hc, h1, h2, h3⟩
    obtain rfl := (hx c (by omega)).1 h1
    obtain rfl := (hy r (by omega)).1 h2
    simp only [hr, if_true, Bool.and_eq_true, decide_eq_true_eq]
    exact ⟨hc, h3⟩

/-- What a drawn sprite does to the display and the collision flag, in the terms of the state (R135, R138). -/
theorem drawSprite_state (s : State) (x y : RegIx) (n : Fin 16) :
    (∀ px py, (Display.pixel (drawSprite (s.reg x) (s.reg y) (spriteBytes s n) s.display).1 px py = true ↔
      (Display.pixel s.display px py = true ↔ ¬ SpriteCovers s x y n px py))) ∧
    ((drawSprite (s.reg x) (s.reg y) (spriteBytes s n) s.display).2 = true ↔
      ∃ px py, Display.pixel s.display px py = true ∧ SpriteCovers s x y n px py) := by
  obtain ⟨h1, h2⟩ := drawSprite_spec (s.reg x) (s.reg y) (spriteBytes s n)
    (by rw [spriteBytes, length_readBytes]; omega) s.display
  simp only [← spriteFlips_iff]
  refine ⟨fun px py => ?_, h2⟩
  rw [h1]
  cases Display.pixel s.display px py <;> cases spriteFlips (s.reg x) (s.reg y) (spriteBytes s n) px py <;> simp

end Sys2Proof.Machine
end

