-- ==== Sys2Proof/Tests/Slice0.lean ====
section
/-! SUPPORT. Tests. Expected results come from spec/95_test_vectors.md (a row of its tables is named in the comment) or
from the encodings of spec/30_encoding.md R66, never from the model. -/

namespace Sys2Proof.Tests

open Sys2Proof.Machine

/-! ### Well-formedness: one ill-formed term for each check (R150) -/

theorem test_wf_refuses_sys_0E0 : Instr.wf (.sys 0x0E0) = false := by decide
theorem test_wf_refuses_sys_0EE : Instr.wf (.sys 0x0EE) = false := by decide
theorem test_wf_accepts_sys_123 : Instr.wf (.sys 0x123) = true := by decide

/-! ### Decoding: each constructor's word, written out from R66's pattern with X = A, Y = 5, N = 3, NN = 2B, NNN = 234 -/

theorem test_decode_cls : decode 0x00E0 = .ok .cls := by decide
theorem test_decode_ret : decode 0x00EE = .ok .ret := by decide
theorem test_decode_jp : decode 0x1234 = .ok (.jp 0x234) := by decide
theorem test_decode_call : decode 0x2234 = .ok (.call 0x234) := by decide
theorem test_decode_jpV0 : decode 0xB234 = .ok (.jpV0 0x234) := by decide
theorem test_decode_seImm : decode 0x3A2B = .ok (.seImm 0xA 0x2B) := by decide
theorem test_decode_sneImm : decode 0x4A2B = .ok (.sneImm 0xA 0x2B) := by decide
theorem test_decode_seReg : decode 0x5A50 = .ok (.seReg 0xA 0x5) := by decide
theorem test_decode_sneReg : decode 0x9A50 = .ok (.sneReg 0xA 0x5) := by decide
theorem test_decode_skp : decode 0xEA9E = .ok (.skp 0xA) := by decide
theorem test_decode_sknp : decode 0xEAA1 = .ok (.sknp 0xA) := by decide
theorem test_decode_ldImm : decode 0x6A2B = .ok (.ldImm 0xA 0x2B) := by decide
theorem test_decode_ldReg : decode 0x8A50 = .ok (.ldReg 0xA 0x5) := by decide
theorem test_decode_ldI : decode 0xA22A = .ok (.ldI 0x22A) := by decide
theorem test_decode_ldFromDT : decode 0xFA07 = .ok (.ldFromDT 0xA) := by decide
theorem test_decode_ldDT : decode 0xFA15 = .ok (.ldDT 0xA) := by decide
theorem test_decode_ldST : decode 0xFA18 = .ok (.ldST 0xA) := by decide
theorem test_decode_ldFont : decode 0xFA29 = .ok (.ldFont 0xA) := by decide
theorem test_decode_storeRegs : decode 0xFA55 = .ok (.storeRegs 0xA) := by decide
theorem test_decode_loadRegs : decode 0xFA65 = .ok (.loadRegs 0xA) := by decide
theorem test_decode_addImm : decode 0x7A2B = .ok (.addImm 0xA 0x2B) := by decide
theorem test_decode_addReg : decode 0x8A54 = .ok (.addReg 0xA 0x5) := by decide
theorem test_decode_sub : decode 0x8A55 = .ok (.sub 0xA 0x5) := by decide
theorem test_decode_subn : decode 0x8A57 = .ok (.subn 0xA 0x5) := by decide
theorem test_decode_orReg : decode 0x8A51 = .ok (.orReg 0xA 0x5) := by decide
theorem test_decode_andReg : decode 0x8A52 = .ok (.andReg 0xA 0x5) := by decide
theorem test_decode_xorReg : decode 0x8A53 = .ok (.xorReg 0xA 0x5) := by decide
theorem test_decode_shr : decode 0x8A56 = .ok (.shr 0xA 0x5) := by decide
theorem test_decode_shl : decode 0x8A5E = .ok (.shl 0xA 0x5) := by decide
theorem test_decode_rnd : decode 0xCA2B = .ok (.rnd 0xA 0x2B) := by decide
theorem test_decode_ldBCD : decode 0xFA33 = .ok (.ldBCD 0xA) := by decide
theorem test_decode_drw : decode 0xDA53 = .ok (.drw 0xA 0x5 0x3) := by decide
theorem test_decode_waitKey : decode 0xFA0A = .ok (.waitKey 0xA) := by decide
theorem test_decode_sys : decode 0x0123 = .ok (.sys 0x123) := by decide
theorem test_decode_addI : decode 0xFA1E = .ok (.addI 0xA) := by decide

/-- Table I: the near misses are rejected, each by its class. -/
theorem test_decode_rejects :
    decode 0x5121 = .error .skipEqualNibble ∧ decode 0x9AB1 = .error .skipNotEqualNibble ∧
    decode 0x8128 = .error .arithmeticNibble ∧ decode 0x812F = .error .arithmeticNibble ∧
    decode 0xE1A0 = .error .keyByte ∧ decode 0xF130 = .error .miscByte := by decide

/-- Two bytes in memory order, the high byte first (S11); a single byte is no instruction (R60). -/
theorem test_decodeBytes_big_endian :
    decodeBytes [0xA2, 0x2A, 0x77] = .ok (.ldI 0x22A, [0x77]) ∧ decodeBytes [0xA2] = .error .truncated := by decide

theorem test_decodeTableWord :
    decodeTableWord 16 0xA22A = some (.ldI 0x22A) ∧ decodeTableWord 16 0x5121 = none := by decide

/-! ### Helpers -/

/-- The state after `load` with the word `op` at 0x200 and the changes `f` (the conventions of 95_test_vectors.md). -/
def start (op : Nat) (f : State → State := id) : State := (f State.reset).withFetchWord 16 op

/-- The state one step leaves. -/
def after (s : State) : State := HostOp.step.apply s

/-- Registers set from a list of index and value. -/
def withRegs (l : List (RegIx × Byte)) (s : State) : State := l.foldl (fun t p => t.setReg p.1 p.2) s

/-! ### Arithmetic and logic (table A) -/

theorem test_addImm_wraps_A1 : (after (start 0x7401 (withRegs [(4, 0xFF), (15, 1)]))).reg 4 = 0 ∧
    (after (start 0x7401 (withRegs [(4, 0xFF), (15, 1)]))).reg 15 = 1 := by decide
theorem test_addReg_carry_A5 : (after (start 0x8124 (withRegs [(1, 200), (2, 100)]))).reg 1 = 44 ∧
    (after (start 0x8124 (withRegs [(1, 200), (2, 100)]))).reg 15 = 1 := by decide
theorem test_addReg_flag_wins_A11 : (after (start 0x8F14 (withRegs [(15, 0xFF), (1, 2)]))).reg 15 = 1 := by decide
theorem test_sub_borrow_A15 : (after (start 0x8125 (withRegs [(1, 5), (2, 7)]))).reg 1 = 0xFE ∧
    (after (start 0x8125 (withRegs [(1, 5), (2, 7)]))).reg 15 = 0 := by decide
theorem test_sub_equal_A16 : (after (start 0x8125 (withRegs [(1, 5), (2, 5)]))).reg 15 = 1 := by decide
theorem test_subn_A20 : (after (start 0x8127 (withRegs [(1, 5), (2, 7)]))).reg 1 = 2 ∧
    (after (start 0x8127 (withRegs [(1, 5), (2, 7)]))).reg 15 = 1 := by decide
theorem test_subn_flag_wins_A23 : (after (start 0x8F17 (withRegs [(15, 3), (1, 2)]))).reg 15 = 0 := by decide
theorem test_or_A24 : (after (start 0x8121 (withRegs [(1, 0xF0), (2, 0x0F), (15, 1)]))).reg 1 = 0xFF ∧
    (after (start 0x8121 (withRegs [(1, 0xF0), (2, 0x0F), (15, 1)]))).reg 15 = 1 := by decide
theorem test_and_A25 : (after (start 0x8122 (withRegs [(1, 0xF0), (2, 0x3C)]))).reg 1 = 0x30 := by decide
theorem test_xor_A26 : (after (start 0x8123 (withRegs [(1, 0xF0), (2, 0x3C)]))).reg 1 = 0xCC := by decide
theorem test_shr_A31 : (after (start 0x8126 (withRegs [(1, 5), (2, 8)]))).reg 1 = 2 ∧
    (after (start 0x8126 (withRegs [(1, 5), (2, 8)]))).reg 15 = 1 := by decide
theorem test_shl_A38 : (after (start 0x812E (withRegs [(1, 0x81), (2, 0x21)]))).reg 1 = 2 ∧
    (after (start 0x812E (withRegs [(1, 0x81), (2, 0x21)]))).reg 15 = 1 := by decide

/-- `LOGIC_RESETS_VF` on, X = 15 (A30); `SHIFT_SRC` = VY (A32, A39). -/
def altered (c : Config) (l : List (RegIx × Byte)) (s : State) : State := withRegs l { s with cfg := c }

theorem test_or_resets_VF_A30 :
    (after (start 0x8F21 (altered { Config.default with logicResetsVF := true } [(15, 0x10), (2, 1)]))).reg 15 = 0 := by
  decide
theorem test_shr_source_VY_A32 :
    (after (start 0x8126 (altered { Config.default with shiftSrc := .vy } [(1, 5), (2, 8)]))).reg 1 = 4 := by decide
theorem test_shl_source_VY_A39 :
    (after (start 0x812E (altered { Config.default with shiftSrc := .vy } [(1, 0x81), (2, 0x21)]))).reg 1 = 0x42 := by
  decide

/-! ### Control flow (table B) -/

theorem test_cls_B1 :
    Display.pixel (after (start 0x00E0 fun s => { s with display := Display.flip s.display 5 3 })).display 5 3 = false ∧
    (after (start 0x00E0)).dirty = true ∧ (after (start 0x00E0)).pc = 0x202 := by decide
theorem test_jp_B3 : (after (start 0x1ABC)).pc = 0xABC := by decide
theorem test_fetch_at_FFF_faults_B6 : (after (after (start 0x1FFF))).fault = some .memoryFault ∧
    (after (after (start 0x1FFF))).pc = 0xFFF := by decide
theorem test_call_B7 : (after (start 0x220C fun s => s.jump 0x204)).stack[0] = 0x206 ∧
    (after (start 0x220C fun s => s.jump 0x204)).sp = 1 ∧ (after (start 0x220C fun s => s.jump 0x204)).pc = 0x20C := by
  decide
theorem test_call_overflow_B9 : (after (start 0x2300 fun s => { s with sp := 16 })).fault = some .stackOverflow ∧
    (after (start 0x2300 fun s => { s with sp := 16 })).sp = 16 := by decide
theorem test_ret_B10 :
    (after (start 0x00EE fun s => { s with sp := 1, stack := s.stack.set 0 0x206, pc := 0x210 })).pc = 0x206 ∧
    (after (start 0x00EE fun s => { s with sp := 1, stack := s.stack.set 0 0x206, pc := 0x210 })).sp = 0 := by decide
theorem test_ret_underflow_B11 : (after (start 0x00EE)).fault = some .stackUnderflow ∧ (after (start 0x00EE)).pc = 0x200 := by
  decide
theorem test_jpV0_B13 : (after (start 0xBFFF fun s => (s.setReg 0 0xFF).jump 0x202)).pc = 0x10FE := by decide

/-! ### Skips (table C) -/

theorem test_seImm_C1 : (after (start 0x332A (withRegs [(3, 0x2A)]))).pc = 0x204 ∧
    (after (start 0x332B (withRegs [(3, 0x2A)]))).pc = 0x202 := by decide
theorem test_sneImm_C3 : (after (start 0x432A (withRegs [(3, 0x2A)]))).pc = 0x202 ∧
    (after (start 0x432B (withRegs [(3, 0x2A)]))).pc = 0x204 := by decide
theorem test_seReg_C5 : (after (start 0x5120 (withRegs [(1, 7), (2, 7)]))).pc = 0x204 ∧
    (after (start 0x5120 (withRegs [(1, 7), (2, 8)]))).pc = 0x202 := by decide
theorem test_sneReg_C8 : (after (start 0x9120 (withRegs [(1, 7), (2, 8)]))).pc = 0x204 ∧
    (after (start 0x9120 (withRegs [(1, 7), (2, 7)]))).pc = 0x202 := by decide
theorem test_skp_C16 : (after (start 0xE09E fun s => keyPress 10 (s.setReg 0 0x1A))).pc = 0x204 ∧
    (after (start 0xE09E fun s => s.setReg 0 0x1A)).pc = 0x202 := by decide
theorem test_sknp_C14 : (after (start 0xE4A1 fun s => s.setReg 4 0x0A)).pc = 0x204 ∧
    (after (start 0xE4A1 fun s => keyPress 10 (s.setReg 4 0x0A))).pc = 0x202 := by decide

/-! ### Loads, stores, timers, font (table D) -/

theorem test_ldImm_D1 : (after (start 0x6A2B)).reg 10 = 0x2B := by decide
theorem test_ldReg_D3 : (after (start 0x8120 (withRegs [(2, 0x99)]))).reg 1 = 0x99 := by decide
theorem test_ldI_D4 : (after (start 0xA22A)).i = 0x22A ∧ (after (start 0xA22A)).pc = 0x202 := by decide
theorem test_ldFromDT_D6 : (after (start 0xF507 fun s => s.setDT 0x3C)).reg 5 = 0x3C := by decide
theorem test_ldDT_D7 : (after (start 0xF515 (withRegs [(5, 0x3C)]))).dt = 0x3C := by decide
theorem test_ldST_D10 : (after (start 0xF018 (withRegs [(0, 2)]))).st = 2 ∧
    (tickTimers (tickTimers (after (start 0xF018 (withRegs [(0, 2)]))))).soundActive = false := by decide
theorem test_ldFont_D12 :
    (after (start 0xFA29 (altered { Config.default with fontBase := 0x50 } [(10, 0x0A)]))).i = 0x082 := by decide
theorem test_ldFont_D13 : (after (start 0xF029 (withRegs [(0, 0xFF)]))).i = 0x4FB := by decide
theorem test_storeRegs_D14 :
    (after (start 0xF255 fun s => withRegs [(0, 1), (1, 2), (2, 3)] (s.setI 0x300))).readBytes 0x300 4 = [1, 2, 3, 0] := by
  decide
theorem test_storeRegs_D17 : (after (start 0xFF55 fun s => s.setI 0xFF1)).fault = some .memoryFault := by decide
theorem test_loadRegs_D21 : (after (start 0xFF65)).v.toList =
    [0xF0, 0x90, 0x90, 0x90, 0xF0, 0x20, 0x60, 0x20, 0x20, 0x70, 0xF0, 0x10, 0xF0, 0x80, 0xF0, 0xF0] := by decide
theorem test_loadRegs_D22 : (after (start 0xF865 fun s => s.setI 0xFF8)).fault = some .memoryFault := by decide
theorem test_addI_D24 : (after (start 0xF11E (withRegs [(1, 5)]))).fault = some .invalidOpcode := by decide
theorem test_addI_D26 :
    (after (start 0xF11E fun s => altered { Config.default with enableFX1E := true } [(1, 2)] (s.setI 0xFFFF))).i = 1 := by
  decide

/-! ### Random, BCD (tables E, F) -/

theorem test_rnd_consumes_one_E1 : (after (start 0xC30F)).rngPos = 1 ∧ (after (start 0xC30F)).pc = 0x202 := by decide
theorem test_rnd_masked_E4 : (after (start 0xC30F)).reg 3 = Config.randomByte 0 &&& 0x0F := rfl
theorem test_bcd_F1 : (after (start 0xF333 fun s => (s.setReg 3 234).setI 0x300)).readBytes 0x300 3 = [2, 3, 4] := by
  decide
theorem test_bcd_F11 : (after (start 0xF033 fun s => (s.setReg 0 234).setI 0xFFE)).fault = some .memoryFault := by decide

/-! ### Draw (table G) -/

/-- The sprite C0 81 at 0x20C, I = 0x20C, V0 = 62, V1 = 31. -/
def spriteStart (s : State) : State := withRegs [(0, 62), (1, 31)] ((s.setI 0x20C).writeBytes 0x20C [0xC0, 0x81])

theorem test_drw_wraps_G3 :
    let d := (after (start 0xD012 spriteStart)).display
    Display.pixel d 62 31 = true ∧ Display.pixel d 63 31 = true ∧ Display.pixel d 62 0 = true ∧
    Display.pixel d 5 0 = true ∧ Display.pixel d 0 31 = false ∧ (after (start 0xD012 spriteStart)).reg 15 = 0 := by
  decide
theorem test_drw_no_rows_G8 :
    let t := after (start 0xD010 fun s => (s.setReg 15 1).setI 0xFFF)
    t.reg 15 = 0 ∧ t.dirty = true ∧ t.pc = 0x202 ∧ t.fault = none := by decide

/-! ### Key wait (table H) -/

theorem test_waitKey_H2 :
    let t := after (start 0xF30A fun s => keyPress 5 s)
    t.wait = true ∧ t.wreg = 3 ∧ t.pc = 0x200 ∧ t.reg 3 = 0 := by decide
theorem test_waitKey_H8 :
    let t := keyPress 5 (keyRelease 5 (keyPress 5 (after (start 0xF30A fun s => keyPress 5 s))))
    t.wait = false ∧ t.reg 3 = 5 ∧ t.pc = 0x202 := by decide

/-! ### Invalid words, faults, load, display (tables I, J) -/

theorem test_sys_J1 : (after State.reset).fault = some .invalidOpcode ∧ (after State.reset).pc = 0x200 := by decide
theorem test_invalid_word : (after (start 0x5121)).fault = some .invalidOpcode ∧ (after (start 0x5121)).pc = 0x200 := by
  decide
theorem test_halted_step_answers_fault :
    (match step (after State.reset) with | .fault k => some k | _ => none) = some Fault.invalidOpcode := by decide
theorem test_load_clears_fault_J3 :
    let t := after (load [0x12, 0x00] (after State.reset)).2
    t.fault = none ∧ t.pc = 0x200 ∧ t.progLen = 2 := by decide
theorem test_step_results :
    stepResult (start 0x00E0) = some (.ok .redraw) ∧ stepResult (start 0xF30A) = some (.ok .awaitingKey) ∧
    stepResult (start 0x1200) = some (.ok .advanced) ∧ stepResult State.reset = some (.fault .invalidOpcode) := by decide
theorem test_tick_J8 :
    (tickTimers (tickTimers ((State.reset.setDT 3).setST 1))).dt = 1 ∧
    (tickTimers (tickTimers ((State.reset.setDT 3).setST 1))).st = 0 := by decide
theorem test_readDisplay_J9 :
    (readDisplay (after (start 0xD012 spriteStart))).1.2 = true ∧
    (readDisplay (after (start 0xD012 spriteStart))).2.dirty = false := by decide
theorem test_odd_pc_B5 :
    let s := (start 0x1203).writeBytes 0x202 [0x00, 0x60, 0x05, 0x00]
    (after (after s)).reg 0 = 5 ∧ (after (after s)).pc = 0x205 := by decide

/-! ### Witnesses: for every statement of Certificates/Slice0/Obligations.lean with hypotheses, states and operands that
meet all the hypotheses of a clause together, at the boundary of its range -/

/-- The state `exec` leaves. -/
def ran (i : Instr) (s : State) : State :=
  match exec i s with
  | .next t => t
  | .fault _ => s
  | .refused _ => s

/-- The last address both of whose instruction bytes are in memory. -/
def lastFetch (op : Nat) : State := start op fun s => s.jump 0xFFE

/-- A state at the edges of the invariant: PC the largest BNNN can give, a full stack of the largest return address, a
listed byte at the top of memory. -/
def edge : State :=
  { (State.reset.jump 0x10FE).writeByte 0xFFF 1 with sp := 16, stack := Vector.replicate 16 0x1000, i := 0xFFF }

/-- A waiting machine, register 3 to take the key. -/
def waiting : State := { State.reset with wait := true, wreg := 3 }

/-- An image of `n` bytes. -/
def image (n : Nat) : List Byte := List.replicate n 1

theorem test_image_length (n : Nat) : (image n).length = n := List.length_replicate ..

/-- A Halted machine. -/
def halted : State := { State.reset with fault := some .stackUnderflow }

theorem test_witness_DecodeInvertsEncode : Instr.wf (.drw 15 15 15) = true ∧ Instr.wf (.sys 0xFFF) = true := by decide
theorem test_witness_EncodeInvertsDecode : decode 0x8FF7 = .ok (.subn 15 15) := by decide
theorem test_witness_DecodedWordSelectsOneRow :
    decode 0x00E0 = .ok .cls ∧ (0x00E0 : Word) &&& (Instr.sys 0).matchMask.2 = (Instr.sys 0).matchMask.1 := by decide
theorem test_witness_InvalidWordsExactlyRaiseInvalidOpcode_invalid :
    (lastFetch 0x8FF8).Running ∧ (lastFetch 0x8FF8).pc.toNat < 0xFFF ∧
    InvalidWord (lastFetch 0x8FF8).cfg (lastFetch 0x8FF8).wordAtPC := by
  refine ⟨by decide, by decide, ?_⟩
  unfold InvalidWord
  decide
theorem test_witness_InvalidWordsExactlyRaiseInvalidOpcode_valid :
    (lastFetch 0x8FF7).Running ∧ (lastFetch 0x8FF7).pc.toNat < 0xFFF ∧
    ¬ InvalidWord (lastFetch 0x8FF7).cfg (lastFetch 0x8FF7).wordAtPC ∧
    step (lastFetch 0x8FF7) = .next (after (lastFetch 0x8FF7)) := by
  refine ⟨by decide, by decide, ?_, rfl⟩
  unfold InvalidWord
  decide
theorem test_witness_StepExecutesDecodedInstruction :
    (lastFetch 0x1234).Running ∧ (lastFetch 0x1234).pc.toNat < 0xFFF ∧
    decode (lastFetch 0x1234).wordAtPC = .ok (.jp 0x234) := by decide
theorem test_witness_FetchReadsTwoBytesBigEndianOrFaults_outside :
    (State.reset.jump 0xFFF).Running ∧ 0xFFF ≤ (State.reset.jump 0xFFF).pc.toNat := by decide
theorem test_witness_FetchReadsTwoBytesBigEndianOrFaults_inside :
    (lastFetch 0x1234).Running ∧ (lastFetch 0x1234).pc.toNat < 0xFFF ∧
    (0x1234 : Word).toNat = ((lastFetch 0x1234).readByte 0xFFE).toNat * 256 + ((lastFetch 0x1234).readByte 0xFFF).toNat ∧
    decode 0x1234 = .ok (.jp 0x234) := by decide
theorem test_witness_FetchReadsTwoBytesBigEndianOrFaults_error :
    (lastFetch 0x8FF8).Running ∧ (lastFetch 0x8FF8).pc.toNat < 0xFFF ∧
    (0x8FF8 : Word).toNat = ((lastFetch 0x8FF8).readByte 0xFFE).toNat * 256 + ((lastFetch 0x8FF8).readByte 0xFFF).toNat ∧
    decode 0x8FF8 = .error .arithmeticNibble := by decide
theorem test_witness_HaltedStepReturnsLatchedFault : halted.fault = some .stackUnderflow := by decide
theorem test_witness_WaitingStepChangesNothing : waiting.fault = none ∧ waiting.wait = true := by decide
theorem test_witness_UnhaltedStepHasNextState : waiting.fault = none ∧ State.reset.fault = none := by decide
theorem test_witness_FaultsArePrecise :
    State.reset.fault = none ∧ step State.reset = .next (after State.reset) ∧
    (after State.reset).fault = some .invalidOpcode := ⟨by decide, rfl, by decide⟩
theorem test_witness_ExecuteFaultsHaveTheListedCauses_stack :
    edge.fault = none ∧ exec (.call 0) edge = .next (ran (.call 0) edge) ∧
    (ran (.call 0) edge).fault = some .stackOverflow ∧ (ran .ret State.reset).fault = some .stackUnderflow :=
  ⟨by decide, rfl, by decide, by decide⟩
theorem test_witness_ExecuteFaultsHaveTheListedCauses_memory :
    (ran (.storeRegs 1) edge).fault = some .memoryFault ∧ (ran (.loadRegs 1) edge).fault = some .memoryFault ∧
    (ran (.ldBCD 0) edge).fault = some .memoryFault ∧ (ran (.drw 0 0 2) edge).fault = some .memoryFault := by decide
theorem test_witness_ExecuteFaultsHaveTheListedCauses_invalid :
    (ran (.sys 0) edge).fault = some .invalidOpcode ∧ (ran (.addI 0) edge).fault = some .invalidOpcode := by decide
theorem test_witness_StepResultByInstruction_fault :
    State.reset.Running ∧ step State.reset = .next (after State.reset) ∧
    (after State.reset).fault = some .invalidOpcode := ⟨by decide, rfl, by decide⟩
theorem test_witness_StepResultByInstruction_redraw :
    (start 0xD010).Running ∧ fetchInstr (start 0xD010) = .ok (.drw 0 1 0) ∧
    step (start 0xD010) = .next (after (start 0xD010)) ∧ (after (start 0xD010)).fault = none :=
  ⟨by decide, rfl, rfl, by decide⟩
theorem test_witness_StepResultByInstruction_awaiting :
    (start 0xF30A).Running ∧ fetchInstr (start 0xF30A) = .ok (.waitKey 3) ∧
    step (start 0xF30A) = .next (after (start 0xF30A)) ∧ (after (start 0xF30A)).fault = none :=
  ⟨by decide, rfl, rfl, by decide⟩
theorem test_witness_StepResultByInstruction_advanced :
    (start 0x1200).Running ∧ fetchInstr (start 0x1200) = .ok (.jp 0x200) ∧
    step (start 0x1200) = .next (after (start 0x1200)) ∧ (after (start 0x1200)).fault = none :=
  ⟨by decide, rfl, rfl, by decide⟩
theorem test_witness_ProgramCounterAdvance :
    State.reset.fault = none ∧ (ran .ret State.reset).fault ≠ none ∧ (ran .cls State.reset).fault = none ∧
    (ran (.seReg 1 1) State.reset).pc = State.reset.pc + 4 ∧ (ran (.waitKey 1) State.reset).pc = State.reset.pc := by decide
theorem test_witness_InstructionsChangeOnlyTheirParts :
    exec (.storeRegs 0) edge = .next (ran (.storeRegs 0) edge) ∧ (ran (.storeRegs 0) edge).fault = edge.fault :=
  ⟨rfl, by decide⟩
theorem test_witness_InstructionsChangeOnlyTheirRegisters :
    exec (.loadRegs 14) State.reset = .next (ran (.loadRegs 14) State.reset) ∧
    ¬ writesReg State.reset.cfg 15 (.loadRegs 14) := by
  refine ⟨rfl, ?_⟩
  unfold writesReg
  decide
theorem test_witness_JumpSetsProgramCounter : (0xFFF : Addr12) = 0xFFF ∧ State.reset.Running := by decide
theorem test_witness_CallPushesReturnAddress :
    ({ State.reset with sp := 15 } : State).sp.val < 16 ∧ edge.sp.val = 16 := by decide
theorem test_witness_ReturnPopsIntoProgramCounter :
    0 < ({ State.reset with sp := 1 } : State).sp.val ∧ 0 < edge.sp.val ∧ 0xFFE < (ran .ret edge).pc.toNat ∧
    edge.Running ∧ State.reset.sp.val = 0 := by decide
theorem test_witness_CallThenReturnResumes :
    State.reset.sp.val < 16 ∧ ({ State.reset with sp := 15 } : State).sp.val < 16 := by decide
theorem test_witness_KeySkip : ((State.reset.setReg 15 0xFF).reg 15).toNat % 16 = (15 : Fin 16).val ∧
    ((State.reset.setReg 0 0x10).reg 0).toNat % 16 = (0 : Fin 16).val := by decide
theorem test_witness_SoundTimerSet : ((State.reset.setReg 15 1).reg 15).toNat = 1 := by decide
theorem test_witness_StoreRegisters : (State.reset.setI 0xFF0).i.toNat + (15 : RegIx).val ≤ 0xFFF ∧
    (15 : RegIx) ≤ 15 ∧ 0xFFF < (State.reset.setI 0xFF1).i.toNat + (15 : RegIx).val := by decide
theorem test_witness_LoadRegisters : (State.reset.setI 0xFFF).i.toNat + (0 : RegIx).val ≤ 0xFFF ∧
    0xFFF < (State.reset.setI 0xFFF).i.toNat + (1 : RegIx).val := by decide
theorem test_witness_StoreIsSeenByNextFetch :
    (State.reset.setI 0x202).i.toNat + (1 : RegIx).val ≤ 0xFFF ∧ (0 : RegIx).val + 1 = (1 : RegIx).val ∧
    (1 : RegIx) ≤ 1 ∧ ((State.reset.setI 0x202).pc + 2).toNat = (State.reset.setI 0x202).i.toNat + (0 : RegIx).val := by
  decide
theorem test_witness_StoreIsSeenByNextFetch_digits :
    (State.reset.setI 0x202).i.toNat + 2 ≤ 0xFFF ∧ ((State.reset.setI 0x202).pc + 2).toNat = (State.reset.setI 0x202).i.toNat + 0 ∧
    ((State.reset.setI 0xFFD).jump 0xFFC).i.toNat + 2 ≤ 0xFFF ∧ (1 : Nat) ≤ 1 ∧
    (((State.reset.setI 0xFFD).jump 0xFFC).pc + 2).toNat = ((State.reset.setI 0xFFD).jump 0xFFC).i.toNat + 1 := by decide
theorem test_witness_AddToIndexWhenEnabled :
    ({ State.reset with cfg := { Config.default with enableFX1E := true } } : State).cfg.enableFX1E = true ∧
    State.reset.cfg.enableFX1E = false := by decide
theorem test_witness_AddWithCarryFlag : (14 : RegIx) ≠ 15 := by decide
theorem test_witness_SubtractWithBorrowFlag : (0 : RegIx) ≠ 15 := by decide
theorem test_witness_BitwiseLogic_default :
    ¬ (State.reset.cfg.logicResetsVF = true ∧ (15 : RegIx) = 15) ∧ (7 : Nat) < 8 ∧
    State.reset.cfg.logicResetsVF = false := by decide
theorem test_witness_BitwiseLogic_reset :
    let s : State := { State.reset with cfg := { Config.default with logicResetsVF := true } }
    ¬ (s.cfg.logicResetsVF = true ∧ (14 : RegIx) = 15) ∧ s.cfg.logicResetsVF = true := by decide
theorem test_witness_ShiftByOne :
    let s : State := { State.reset with cfg := { Config.default with shiftSrc := .vy } }
    (1 : RegIx) = (if State.reset.cfg.shiftSrc = .vx then 1 else 2) ∧ (2 : RegIx) = (if s.cfg.shiftSrc = .vx then 1 else 2) ∧
    (1 : RegIx) ≠ 15 := by decide
theorem test_witness_DecimalDigitsStored :
    (State.reset.setI 0xFFD).i.toNat + 2 ≤ 0xFFF ∧ 0xFFF < (State.reset.setI 0xFFE).i.toNat + 2 := by decide
theorem test_witness_DrawFlipsSpritePixels :
    ((0 : Fin 16).val = 0 ∨ (State.reset.setI 0xFFFF).i.toNat + (0 : Fin 16).val - 1 ≤ 0xFFF) ∧
    ((15 : Fin 16).val = 0 ∨ (State.reset.setI 0xFF1).i.toNat + (15 : Fin 16).val - 1 ≤ 0xFFF) := by decide
theorem test_witness_DrawOutsideMemoryFaults :
    1 ≤ (2 : Fin 16).val ∧ 0xFFF < (State.reset.setI 0xFFF).i.toNat + (2 : Fin 16).val - 1 ∧
    1 ≤ (1 : Fin 16).val ∧ 0xFFF < (State.reset.setI 0x1000).i.toNat + (1 : Fin 16).val - 1 := by decide
theorem test_witness_DoubleDrawRestoresDisplay :
    (0 : RegIx) ≠ 15 ∧ (14 : RegIx) ≠ 15 ∧
    ((15 : Fin 16).val = 0 ∨ (State.reset.setI 0xFF1).i.toNat + (15 : Fin 16).val - 1 ≤ 0xFFF) ∧
    ∀ px py, SpriteCovers (State.reset.setI 0xFF1) 0 14 15 px py →
      Display.pixel (State.reset.setI 0xFF1).display px py = false :=
  ⟨by decide, by decide, by decide, fun _ _ _ => by simp [State.setI, State.reset, Display.pixel]⟩
theorem test_witness_MachineCodeCallRaisesInvalidOpcode : (0x0E1 : Addr12) ≠ 0x0E0 ∧ (0x0E1 : Addr12) ≠ 0x0EE := by decide
theorem test_witness_LoadResetsTheMachine : (image 3584).length ≤ 3584 ∧ (0xFFF : Nat) < 4096 :=
  ⟨(test_image_length 3584).le, by decide⟩
theorem test_witness_OversizedImageChangesNothing : 3584 < (image 3585).length := by
  rw [test_image_length]; decide
theorem test_witness_KeyPressCompletesWait_completes : waiting.wait = true ∧ waiting.key[15] = false := by decide
theorem test_witness_KeyPressCompletesWait_repeats :
    let s : State := { waiting with key := waiting.key.set 15 true }
    ¬ (s.wait = true ∧ s.key[15] = false) ∧ ¬ (State.reset.wait = true ∧ State.reset.key[15] = false) := by decide
theorem test_witness_KeyReleaseClearsKey : ∃ t, t = keyRelease (15 : Fin 16).val waiting := ⟨_, rfl⟩
theorem test_witness_OutOfRangeKeysIgnored : 15 < 16 := by decide
theorem test_witness_KeyWaitHasNoTimeout :
    waiting.fault = none ∧ waiting.wait = true ∧
    ∀ o ∈ [HostOp.step, .tickTimers, .keyRelease 3, .keyPress 16, .readDisplay, .load (image 3585)],
      (∀ k, o = .keyPress k → 15 < k) ∧ ∀ img, o = .load img → 3584 < img.length := by
  refine ⟨by decide, by decide, fun o ho => ⟨fun k hk => ?_, fun image hi => ?_⟩⟩
  · subst hk; simp at ho; omega
  · subst hi; simp at ho; subst ho; rw [test_image_length]; decide
theorem test_witness_HaltedUntilLoad :
    halted.fault = some .stackUnderflow ∧ halted.wait = false ∧
    ∀ o ∈ [HostOp.step, .tickTimers, .keyPress 3, .readDisplay, .load (image 3585)],
      ∀ img, o = .load img → 3584 < img.length := by
  refine ⟨by decide, by decide, fun o ho image hi => ?_⟩
  subst hi; simp at ho; subst ho; rw [test_image_length]; decide
theorem test_witness_StepKeepsInvariant : edge.Inv ∧ step edge = .next (after edge) :=
  ⟨⟨by decide, by decide, by decide, by decide, by decide, by decide⟩, rfl⟩
theorem test_witness_EveryInterleavingKeepsInvariant : waiting.Inv :=
  ⟨by decide, by decide, by decide, by decide, by decide, by decide⟩

end Sys2Proof.Tests
end

namespace Sys2Proof.Machine

/-! ## Frames: what an update leaves unchanged

One rule per field of the state. The frame of a longer update is put together from them by `Frame.trans`. -/

theorem Part.same_refl (p : Part) (s : State) : p.same s s := by
  cases p <;> simp [Part.same]

theorem Part.same_trans {p : Part} {s t u : State} (h₁ : p.same s t) (h₂ : p.same t u) : p.same s u := by
  cases p <;> simp_all [Part.same]

/-- `SameBut`, and the very same list of memory cells where memory is not among the parts named: the canonical form is a
property of that list, which equal reads do not determine. -/
structure Frame (changed : List Part) (s t : State) : Prop where
  same : SameBut changed s t
  mem : .memory ∉ changed → t.mem = s.mem

theorem Frame.refl (changed : List Part) (s : State) : Frame changed s s where
  same p _ := p.same_refl s
  mem _ := rfl

theorem Frame.trans {a b : List Part} {s t u : State} (h₁ : Frame a s t) (h₂ : Frame b t u) : Frame (a ++ b) s u where
  same p hp := by
    rw [List.mem_append, not_or] at hp
    exact Part.same_trans (h₁.same p hp.1) (h₂.same p hp.2)
  mem hm := by
    rw [List.mem_append, not_or] at hm
    exact (h₂.mem hm.2).trans (h₁.mem hm.1)

theorem Frame.mono {a b : List Part} {s t : State} (h : Frame a s t) (hab : a ⊆ b) : Frame b s t where
  same p hp := h.same p fun ha => hp (hab ha)
  mem hm := h.mem fun ha => hm (hab ha)

section FieldRules
variable (s : State)

theorem frame_v (v : Vector Byte 16) : Frame [.regs] s { s with v := v } :=
  ⟨fun p hp => by cases p <;> simp_all [Part.same, State.readByte], fun _ => rfl⟩
theorem frame_i (w : Word) : Frame [.index] s { s with i := w } :=
  ⟨fun p hp => by cases p <;> simp_all [Part.same, State.reg, State.readByte], fun _ => rfl⟩
theorem frame_pc (w : Word) : Frame [.pc] s { s with pc := w } :=
  ⟨fun p hp => by cases p <;> simp_all [Part.same, State.reg, State.readByte], fun _ => rfl⟩
theorem frame_stack (sp : Fin 17) (stack : Vector Word 16) : Frame [.stack] s { s with sp := sp, stack := stack } :=
  ⟨fun p hp => by cases p <;> simp_all [Part.same, State.reg, State.readByte], fun _ => rfl⟩
theorem frame_dt (b : Byte) : Frame [.delay] s { s with dt := b } :=
  ⟨fun p hp => by cases p <;> simp_all [Part.same, State.reg, State.readByte], fun _ => rfl⟩
theorem frame_st (b : Byte) : Frame [.sound] s { s with st := b } :=
  ⟨fun p hp => by cases p <;> simp_all [Part.same, State.reg, State.readByte], fun _ => rfl⟩
theorem frame_display (d : Display) : Frame [.display] s { s with display := d } :=
  ⟨fun p hp => by cases p <;> simp_all [Part.same, State.reg, State.readByte], fun _ => rfl⟩
theorem frame_dirty (b : Bool) : Frame [.dirty] s { s with dirty := b } :=
  ⟨fun p hp => by cases p <;> simp_all [Part.same, State.reg, State.readByte], fun _ => rfl⟩
theorem frame_key (k : Vector Bool 16) : Frame [.keys] s { s with key := k } :=
  ⟨fun p hp => by cases p <;> simp_all [Part.same, State.reg, State.readByte], fun _ => rfl⟩
theorem frame_mem (m : Memory) : Frame [.memory] s { s with mem := m } :=
  ⟨fun p hp => by cases p <;> simp_all [Part.same, State.reg], fun hm => absurd (List.mem_singleton.2 rfl) hm⟩
theorem frame_wait (b : Bool) (x : RegIx) : Frame [.waiting] s { s with wait := b, wreg := x } :=
  ⟨fun p hp => by cases p <;> simp_all [Part.same, State.reg, State.readByte], fun _ => rfl⟩
theorem frame_fault (f : Option Fault) : Frame [.fault] s { s with fault := f } :=
  ⟨fun p hp => by cases p <;> simp_all [Part.same, State.reg, State.readByte], fun _ => rfl⟩
theorem frame_rngPos (n : Nat) : Frame [.random] s { s with rngPos := n } :=
  ⟨fun p hp => by cases p <;> simp_all [Part.same, State.reg, State.readByte], fun _ => rfl⟩

/-- The commonest completion: registers take values and PC moves. -/
theorem frame_v_pc (v : Vector Byte 16) (w : Word) : Frame [.regs, .pc] s { s with v := v, pc := w } :=
  (frame_v s v).trans (frame_pc _ w)

theorem frame_setLogic_advance (x : RegIx) (b : Byte) : Frame [.regs, .pc] s (s.setLogic x b).advance := by
  unfold State.setLogic
  split <;> exact frame_v_pc s _ _

end FieldRules

/-! ## The frame of every instruction -/

/-- A meaning that checks a condition first either raises its fault or has the frame of what it does then. -/
theorem fault_or_frame_of_ite {c : Prop} [Decidable c] {s t u : State} {k : Fault} {changed : List Part}
    (h : (if c then .next u else .next { s with fault := some k } : Host.Outcome State Fault Refusal) = .next t)
    (hu : Frame changed s u) : (∃ k, t = { s with fault := some k }) ∨ Frame changed s t := by
  split at h <;> cases h
  · exact .inr hu
  · exact .inl ⟨k, rfl⟩

/-- What an execution can do: raise a fault, with FAULT alone changed, or complete, with the parts of `mayWrite`
changed. -/
theorem exec_frame {i : Instr} {s t : State} (h : exec i s = .next t) :
    (∃ k, t = { s with fault := some k }) ∨ Frame (mayWrite i) s t := by
  cases i with
  | ret =>
    rw [exec_ret] at h; split at h <;> cases h
    · exact .inr ((frame_stack s ⟨s.sp.val - 1, by omega⟩ s.stack).trans (frame_pc _ _))
    · exact .inl ⟨_, rfl⟩
  | call nnn =>
    rw [exec_call] at h; split at h <;> cases h
    · exact .inr ((frame_stack s ⟨s.sp.val + 1, by omega⟩ (s.stack.set s.sp.val (s.pc + 2))).trans (frame_pc _ _))
    · exact .inl ⟨_, rfl⟩
  | storeRegs x => exact fault_or_frame_of_ite ((exec_storeRegs x s).symm.trans h) ((frame_mem s _).trans (frame_pc _ _))
  | ldBCD x => exact fault_or_frame_of_ite ((exec_ldBCD x s).symm.trans h) ((frame_mem s _).trans (frame_pc _ _))
  | loadRegs x => exact fault_or_frame_of_ite ((exec_loadRegs x s).symm.trans h) (frame_v_pc s _ _)
  | addI x => exact fault_or_frame_of_ite ((exec_addI x s).symm.trans h) ((frame_i s _).trans (frame_pc _ _))
  | drw x y n =>
    refine fault_or_frame_of_ite ((exec_drw x y n s).symm.trans h) (Frame.mono ?_ (?_ : [.display, .dirty, .regs, .pc] ⊆ _))
    · exact ((frame_display s _).trans (frame_dirty _ true)).trans (frame_v_pc _ _ _)
    · simp [mayWrite]
  | sys nnn => cases h; exact .inl ⟨_, rfl⟩
  | waitKey x => cases h; exact .inr (frame_wait s _ _)
  | cls => cases h; exact .inr (((frame_display s Display.blank).trans (frame_dirty _ true)).trans (frame_pc _ _))
  | ldI nnn => cases h; exact .inr ((frame_i s _).trans (frame_pc _ _))
  | ldFont x => cases h; exact .inr ((frame_i s _).trans (frame_pc _ _))
  | ldDT x => cases h; exact .inr ((frame_dt s _).trans (frame_pc _ _))
  | ldST x => cases h; exact .inr ((frame_st s _).trans (frame_pc _ _))
  | rnd x nn =>
    cases h
    refine .inr (Frame.mono ((frame_rngPos s _).trans (frame_v_pc _ _ _)) ?_)
    simp [mayWrite]
  | orReg | andReg | xorReg => cases h; exact .inr (frame_setLogic_advance s _ _)
  | jp | jpV0 | seImm | sneImm | seReg | sneReg | skp | sknp => cases h; exact .inr (frame_pc s _)
  | ldImm | ldReg | ldFromDT | addImm | addReg | sub | subn | shr | shl => cases h; exact .inr (frame_v_pc s _ _)

/-- Whether it completes or faults, an execution changes nothing but FAULT and the parts of `mayWrite`. -/
theorem exec_frame_or_fault {i : Instr} {s t : State} (h : exec i s = .next t) : Frame (.fault :: mayWrite i) s t := by
  obtain ⟨k, rfl⟩ | hf := exec_frame h
  · exact (frame_fault s _).mono (by simp)
  · exact hf.mono (List.subset_cons_self _ _)

theorem exec_same {i : Instr} {s t : State} (h : exec i s = .next t) {p : Part} (hf : p ≠ .fault)
    (hp : p ∉ mayWrite i) : p.same s t :=
  (exec_frame_or_fault h).same p (by simp [hf, hp])

/-- Settles O15, by the frame of every execution: one that raised a fault with FAULT as before changed nothing. -/
theorem instructionsChangeOnlyTheirParts : Obligations.InstructionsChangeOnlyTheirParts := by
  unfold Obligations.InstructionsChangeOnlyTheirParts
  intro i s t h hfault
  obtain ⟨k, rfl⟩ | hf := exec_frame h
  · rw [show some k = s.fault from hfault]
    exact (Frame.refl _ s).same
  · exact hf.same

/-! ## The frame of the registers -/

/-- Settles O16: an instruction that writes registers at all writes the ones of `writesReg`; for every other the frame of
execution keeps them all. -/
theorem instructionsChangeOnlyTheirRegisters : Obligations.InstructionsChangeOnlyTheirRegisters := by
  unfold Obligations.InstructionsChangeOnlyTheirRegisters
  intro i s t r h hr
  cases i with
  | ldImm | ldReg | ldFromDT | addImm | rnd =>
    simp only [writesReg] at hr
    cases h; simp [hr]
  | addReg | sub | subn | shr | shl | orReg | andReg | xorReg =>
    simp only [writesReg, not_or] at hr
    cases h; simp [hr]
  | loadRegs x =>
    simp only [writesReg] at hr
    rw [exec_loadRegs] at h; split at h <;> cases h
    · simp [hr]
    · rfl
  | drw x y n =>
    simp only [writesReg] at hr
    rw [exec_drw] at h; split at h <;> cases h
    · rw [reg_advance, reg_setFlag, if_neg hr]; rfl
    · rfl
  | _ => exact exec_same h (p := .regs) (by decide) (by simp [mayWrite]) r

/-! ## The timers -/

theorem delay_mem_mayWrite {i : Instr} : .delay ∈ mayWrite i ↔ ∃ x, i = .ldDT x := by
  cases i <;> simp [mayWrite]

theorem sound_mem_mayWrite {i : Instr} : .sound ∈ mayWrite i ↔ ∃ x, i = .ldST x := by
  cases i <;> simp [mayWrite]

theorem exec_dt {i : Instr} {s t : State} (h : exec i s = .next t) :
    t.dt = s.dt ∨ ∃ x, i = .ldDT x ∧ t.dt = s.reg x := by
  by_cases hd : .delay ∈ mayWrite i
  · obtain ⟨x, rfl⟩ := delay_mem_mayWrite.1 hd
    cases h; exact .inr ⟨x, rfl, rfl⟩
  · exact .inl (exec_same h (p := .delay) (by decide) hd)

theorem exec_st {i : Instr} {s t : State} (h : exec i s = .next t) :
    t.st = s.st ∨ ∃ x, i = .ldST x ∧ t.st = s.reg x := by
  by_cases hd : .sound ∈ mayWrite i
  · obtain ⟨x, rfl⟩ := sound_mem_mayWrite.1 hd
    cases h; exact .inr ⟨x, rfl, rfl⟩
  · exact .inl (exec_same h (p := .sound) (by decide) hd)

/-- What the operation `step` does to the state: nothing or a fault latched, or a running machine executes the
instruction it fetched. -/
theorem apply_step_cases (s : State) :
    (∃ f, HostOp.step.apply s = { s with fault := f }) ∨
    (s.Running ∧ ∃ i, fetchInstr s = .ok i ∧ exec i s = .next (HostOp.step.apply s)) := by
  obtain ⟨k, -, h⟩ | ⟨-, -, h⟩ | ⟨-, -, k, -, h⟩ | ⟨hf, hw, i, hi, h⟩ := step_cases s
  · exact .inl ⟨s.fault, by simp only [HostOp.apply, h]⟩
  · exact .inl ⟨s.fault, by simp only [HostOp.apply, h]⟩
  · exact .inl ⟨some k, by simp only [HostOp.apply, h]⟩
  · obtain ⟨t, ht⟩ := exec_total i s
    exact .inr ⟨⟨hf, hw⟩, i, hi, by simp only [HostOp.apply, h, ht]⟩

theorem toNat_countDown (b : Byte) : (countDown b).toNat = b.toNat - 1 := by
  unfold countDown
  split
  · rw [BitVec.toNat_ofNat]; omega
  · omega

theorem keyPress_frame (k : Nat) (s : State) : Frame [.keys, .regs, .pc, .waiting] s (keyPress k s) := by
  unfold keyPress pressKey
  split
  · next hk =>
    have hkey (t : State) : Frame [.keys] t { t with key := s.key.set k true } := frame_key t _
    split
    · have hreg : Frame [.regs, .pc] s (s.setReg s.wreg (BitVec.ofNat 8 k)).advance := frame_v_pc s _ _
      exact Frame.mono ((hreg.trans (hkey _)).trans (frame_wait _ false s.wreg)) (by simp)
    · exact (hkey s).mono (by simp)
  · exact Frame.refl _ s

theorem keyRelease_frame (k : Nat) (s : State) : Frame [.keys] s (keyRelease k s) := by
  unfold keyRelease
  split
  · exact frame_key s _
  · exact Frame.refl _ s

theorem load_timers (image : List Byte) (s : State) :
    (load image s).2 = s ∨ ((load image s).2.dt = 0 ∧ (load image s).2.st = 0) := by
  unfold load
  split
  · exact .inl rfl
  · exact .inr ⟨rfl, rfl⟩

/-- Settles O50, operation by operation: a step by what execution does to the timers, a key and a display read by their
frames. -/
theorem timersRiseOnlyWhenSet : Obligations.TimersRiseOnlyWhenSet := by
  unfold Obligations.TimersRiseOnlyWhenSet
  intro o s
  cases o with
  | step =>
    obtain ⟨f, h⟩ | ⟨hrun, i, hi, h⟩ := apply_step_cases s
    · exact ⟨.inl (by rw [h]), .inl (by rw [h])⟩
    · exact ⟨(exec_dt h).imp_right fun ⟨x, hx, hdt⟩ => .inr (.inr ⟨rfl, hrun, x, hx ▸ hi, hdt⟩),
        (exec_st h).imp_right fun ⟨x, hx, hst⟩ => .inr (.inr ⟨rfl, hrun, x, hx ▸ hi, hst⟩)⟩
  | tickTimers =>
    exact ⟨.inr (.inl ⟨rfl, toNat_countDown s.dt⟩), .inr (.inl ⟨rfl, toNat_countDown s.st⟩)⟩
  | keyPress k =>
    have hf := (keyPress_frame k s).same
    exact ⟨.inl (hf .delay (by decide)), .inl (hf .sound (by decide))⟩
  | keyRelease k =>
    have hf := (keyRelease_frame k s).same
    exact ⟨.inl (hf .delay (by decide)), .inl (hf .sound (by decide))⟩
  | readDisplay => exact ⟨.inl rfl, .inl rfl⟩
  | load image =>
    obtain h | ⟨hdt, hst⟩ := load_timers image s
    · exact ⟨.inl (congrArg State.dt h), .inl (congrArg State.st h)⟩
    · exact ⟨.inr (.inr (.inl ⟨⟨image, rfl⟩, hdt⟩)), .inr (.inr (.inl ⟨⟨image, rfl⟩, hst⟩))⟩

/-! ## The power-on state -/

theorem readByte_reset_of_ge {a : Nat} (h : 80 ≤ a) : State.reset.readByte a = 0 := by
  show Memory.background Config.default a = 0
  rw [Memory.background, dif_neg]
  show ¬ (0 ≤ a ∧ a < 0 + 80)
  omega

theorem pixel_reset (x : Fin 64) (y : Fin 32) : Display.pixel State.reset.display x y = false := by
  simp [State.reset, Display.pixel]

/-- Settles O48: the fields stand in `State.reset`; memory lists no byte, so it reads as the font and 0. -/
theorem powerOnState : Obligations.PowerOnState := by
  unfold Obligations.PowerOnState
  exact ⟨by decide, rfl, rfl, rfl, by decide, rfl, rfl, pixel_reset, rfl, by decide, rfl, rfl, rfl, rfl,
    fun _ h _ => readByte_reset_of_ge h, by decide⟩

/-- Settles O57: memory lists no byte, the stack holds no live entry, and the other clauses are about fixed values. -/
theorem powerOnSatisfiesInvariant : Obligations.PowerOnSatisfiesInvariant := by
  unfold Obligations.PowerOnSatisfiesInvariant
  exact
    { mem := Memory.wf_nil _
      pc := by decide
      stack := fun k hk => absurd hk (Nat.not_lt_zero _)
      index := by decide
      subState := by decide
      progLen := by decide }

/-! ## Execution keeps each clause of the invariant -/

theorem absolute_le (nnn : Addr12) : (absolute nnn).toNat ≤ 0xFFF := by
  unfold absolute
  bv_omega

theorem absolutePlusV0_le (s : State) (nnn : Addr12) : (absolutePlusV0 s nnn).toNat ≤ 0x10FE := by
  rw [absolutePlusV0, BitVec.toNat_ofNat]
  exact (Nat.mod_le _ _).trans (by omega)

theorem fontAddress_le (s : State) (x : RegIx) : (fontAddress s x).toNat ≤ 0xFFF := by
  rw [fontAddress, BitVec.toNat_ofNat]
  exact (Nat.mod_le _ _).trans (by omega)

section Clauses
variable {i : Instr} {s t : State} (h : exec i s = .next t)
include h

/-- No instruction writes the parameters (R4). -/
theorem exec_cfg : t.cfg = s.cfg :=
  exec_same h (p := .config) (by decide) (by cases i <;> simp [mayWrite])

/-- No instruction writes PROG_LEN (R29). -/
theorem exec_progLen : t.progLen = s.progLen :=
  exec_same h (p := .progLen) (by decide) (by cases i <;> simp [mayWrite])

/-- The one instruction that moves the machine into a key wait changes nothing else (R145). -/
theorem exec_wait : t.wait = s.wait ∨ ∃ x, t = { s with wait := true, wreg := x } := by
  cases i with
  | waitKey x => cases h; exact .inr ⟨x, rfl⟩
  | _ => exact .inl (exec_same h (p := .waiting) (by decide) (by simp [mayWrite])).1

/-- A store is checked against the end of MEM before its first byte is written (R48). -/
theorem exec_memWf (hm : s.MemWf) : t.MemWf := by
  have hcfg := exec_cfg h
  cases i with
  | storeRegs x =>
    rw [exec_storeRegs] at h; split at h <;> cases h
    · next hin => exact Memory.wf_writeAll _ hm (by rw [length_regsUpTo, memSize]; omega)
    · exact hm
  | ldBCD x =>
    rw [exec_ldBCD] at h; split at h <;> cases h
    · next hin => exact Memory.wf_writeAll _ hm (by simp only [decimalDigits, List.length, memSize]; omega)
    · exact hm
  | _ =>
    have hmem := (exec_frame_or_fault h).mem (by simp [mayWrite])
    rw [State.MemWf, hcfg, hmem]; exact hm

/-- A CALL pushes the address after a fetched instruction, a RET only drops an entry, and no other instruction touches
the stack (R21). -/
theorem exec_stackOk (hpc : s.pc.toNat ≤ 0xFFE) (hs : s.StackOk) : t.StackOk := by
  cases i with
  | ret =>
    rw [exec_ret] at h; split at h <;> cases h
    · exact fun k hk => hs k (Nat.lt_of_lt_of_le hk (Nat.sub_le _ _))
    · exact hs
  | call nnn =>
    rw [exec_call] at h; split at h <;> cases h
    · intro k hk
      rw [Vector.getElem_set]
      split
      · bv_omega
      · have hne : s.sp.val ≠ k.val := ‹_›
        have hlt : k.val < s.sp.val + 1 := hk
        exact hs k (by omega)
    · exact hs
  | _ =>
    obtain ⟨hsp, hstack⟩ := exec_same h (p := .stack) (by decide) (by simp [mayWrite])
    rw [State.StackOk, hsp, hstack]; exact hs

/-- ANNN and FX29 give I a value below 0x1000, and FX1E, which may not, is no instruction here (R17). -/
theorem exec_indexOk (hs : s.IndexOk) : t.IndexOk := by
  have hcfg := exec_cfg h
  intro hoff
  rw [hcfg] at hoff
  cases i with
  | ldI nnn => cases h; exact absolute_le nnn
  | ldFont x => cases h; exact fontAddress_le s x
  | addI x =>
    rw [exec_addI, if_neg (by simp [hoff])] at h; cases h
    exact hs hoff
  | _ =>
    have hi : t.i = s.i := exec_same h (p := .index) (by decide) (by simp [mayWrite])
    rw [hi]; exact hs hoff

/-- The highest PC is that of `JP V0`, 0xFFF + 0xFF (R14). -/
theorem exec_pc_le (hpc : s.pc.toNat ≤ 0xFFE) (hs : s.StackOk) : t.pc.toNat ≤ 0x10FE := by
  have hstay : s.pc.toNat ≤ 0x10FE := by omega
  have hadvance : (s.pc + 2).toNat ≤ 0x10FE := by bv_omega
  have hskip (c : Bool) : (s.skipIf c).pc.toNat ≤ 0x10FE := by
    cases c
    · exact hadvance
    · show (s.pc + 4).toNat ≤ 0x10FE
      bv_omega
  cases i with
  | ret =>
    rw [exec_ret] at h; split at h <;> cases h
    · next hsp => exact (hs ⟨s.sp.val - 1, by omega⟩ (Nat.sub_lt hsp one_pos)).2.trans (by decide)
    · exact hstay
  | call nnn =>
    rw [exec_call] at h; split at h <;> cases h
    · exact (absolute_le nnn).trans (by decide)
    · exact hstay
  | jp nnn => cases h; exact (absolute_le nnn).trans (by decide)
  | jpV0 nnn => cases h; exact absolutePlusV0_le s nnn
  | seImm | sneImm | seReg | sneReg | skp | sknp => cases h; exact hskip _
  | storeRegs | loadRegs | ldBCD | drw | addI =>
    simp only [exec_storeRegs, exec_loadRegs, exec_ldBCD, exec_drw, exec_addI] at h
    split at h <;> cases h
    · exact hadvance
    · exact hstay
  | waitKey | sys => cases h; exact hstay
  | orReg | andReg | xorReg => cases h; rw [advance_pc, setLogic_pc]; exact hadvance
  | _ => cases h; exact hadvance

/-- Execution of an instruction fetched on a running machine keeps the invariant. -/
theorem exec_keeps_inv (hs : s.Inv) (hrun : s.Running) (hpc : s.pc.toNat ≤ 0xFFE) : t.Inv := by
  obtain ⟨hfault, hwait⟩ := hrun
  have hw := exec_wait h
  exact
    { mem := exec_memWf h hs.mem
      pc := by
        refine ⟨exec_pc_le h hpc hs.stack, fun ht => ?_⟩
        obtain hw | ⟨x, rfl⟩ := hw
        · simp [hw, hwait] at ht
        · exact hpc
      stack := exec_stackOk h hpc hs.stack
      index := exec_indexOk h hs.index
      subState := by
        rintro ⟨ht, htf⟩
        obtain hw | ⟨x, rfl⟩ := hw
        · simp [hw, hwait] at ht
        · exact htf hfault
      progLen := by rw [State.ProgLenOk, exec_progLen h]; exact hs.progLen }

end Clauses

/-- Latching a fault keeps the invariant of a machine that awaits no key. -/
theorem inv_fault {s : State} (hs : s.Inv) (hwait : s.wait = false) (f : Option Fault) :
    State.Inv { s with fault := f } :=
  { hs with subState := fun ⟨hw, _⟩ => by simp [hwait] at hw }

/-- Settles O58: a step stays, latches a fault on a running machine, or executes an instruction both of whose bytes are in
memory, which bounds PC. -/
theorem stepKeepsInvariant : Obligations.StepKeepsInvariant := by
  unfold Obligations.StepKeepsInvariant
  intro s t hs h
  obtain ⟨k, -, hk⟩ | ⟨-, -, hstay⟩ | ⟨-, hwait, k, -, hraise⟩ | ⟨hfault, hwait, i, hi, hexec⟩ := step_cases s
  · rw [hk] at h; cases h
  · rw [hstay] at h; cases h; exact hs
  · rw [hraise] at h; cases h; exact inv_fault hs hwait _
  · obtain ⟨hfetch, -⟩ := (fetchInstr_ok s i).1 hi
    exact exec_keeps_inv (hexec ▸ h) hs ⟨hfault, hwait⟩ (by omega)

end Sys2Proof.Machine

namespace Sys2Proof.Machine

/-! ## Words in memory (R47, R49) -/

theorem toNat_wordOfBytes (hi lo : Byte) : (wordOfBytes hi lo).toNat = hi.toNat * 256 + lo.toNat := by
  rw [wordOfBytes, BitVec.toNat_append, ← Nat.shiftLeft_add_eq_or_of_lt lo.isLt, Nat.shiftLeft_eq]

theorem toNat_wordAtPC (s : State) :
    s.wordAtPC.toNat = (s.readByte s.pc.toNat).toNat * 256 + (s.readByte (s.pc.toNat + 1)).toNat :=
  toNat_wordOfBytes _ _

/-- The word at the PC that follows a store is the one stored, where both of its bytes are among those stored (R54). -/
theorem wordAtPC_writeBytes_advance {s : State} {a k : Nat} {bs : List Byte} (hk : k + 1 < bs.length)
    (hpc : (s.pc + 2).toNat = a + k) :
    (s.writeBytes a bs).advance.wordAtPC = wordOfBytes bs[k] bs[k + 1] := by
  have hread (j : Nat) (hj : j < bs.length) : (s.writeBytes a bs).advance.readByte (a + j) = bs[j] := by
    rw [readByte_advance, readByte_writeBytes, dif_pos (by omega)]
    simp only [Nat.add_sub_cancel_left]
  rw [State.wordAtPC, advance_pc, writeBytes_pc, hpc, hread k (by omega), Nat.add_assoc, hread (k + 1) hk]

/-! ## Fetch (R47, R64, R67) -/

section Fetch
variable {s : State} (hs : s.Running)
include hs

/-- A running machine executes what it fetched. -/
theorem step_of_fetchInstr_ok {i : Instr} (hi : fetchInstr s = .ok i) : step s = exec i s := by
  obtain ⟨hfault, hwait⟩ := hs
  simp only [step, hfault, hwait, hi, Bool.false_eq_true, if_false]

/-- A running machine latches the fault of its fetch. -/
theorem step_of_fetchInstr_error {k : Fault} (hk : fetchInstr s = .error k) :
    step s = .next { s with fault := some k } := by
  obtain ⟨hfault, hwait⟩ := hs
  simp only [step, hfault, hwait, hk, Bool.false_eq_true, if_false, takeFault_eq]

end Fetch

/-- Settles O7: `op` is the word at PC, and the step does what fetching that word answers. -/
theorem fetchReadsTwoBytesBigEndianOrFaults : Obligations.FetchReadsTwoBytesBigEndianOrFaults := by
  unfold Obligations.FetchReadsTwoBytesBigEndianOrFaults
  refine ⟨fun s hs hpc => ?_, fun s op hs hpc hop => ?_⟩
  · exact step_of_fetchInstr_error hs ((fetchInstr_error s _).2 (.inl ⟨by omega, rfl⟩))
  · have hword : op = s.wordAtPC := BitVec.eq_of_toNat_eq (hop.trans (toNat_wordAtPC s).symm)
    subst hword
    have hin : s.pc.toNat + 1 < 4096 := by omega
    refine ⟨fun i hi => ?_, fun e he => ?_⟩
    · exact step_of_fetchInstr_ok hs ((fetchInstr_ok s i).2 ⟨hin, hi⟩)
    · exact step_of_fetchInstr_error hs ((fetchInstr_error s _).2 (.inr ⟨hin, ⟨e, he⟩, rfl⟩))

/-! ## A store and the fetch that follows it (R54) -/

section DecimalDigits
variable (b : Byte)

theorem toNat_hundreds (h : 0 < (decimalDigits b).length) : (decimalDigits b)[0].toNat = b.toNat / 100 :=
  Nat.mod_eq_of_lt (by omega)
theorem toNat_tens (h : 1 < (decimalDigits b).length) : (decimalDigits b)[1].toNat = b.toNat / 10 % 10 :=
  Nat.mod_eq_of_lt (by omega)
theorem toNat_units (h : 2 < (decimalDigits b).length) : (decimalDigits b)[2].toNat = b.toNat % 10 :=
  Nat.mod_eq_of_lt (by omega)

end DecimalDigits

/-- Settles O32: each instruction stores a list of bytes, two neighbours of which make the word at the next PC. -/
theorem storeIsSeenByNextFetch : Obligations.StoreIsSeenByNextFetch := by
  unfold Obligations.StoreIsSeenByNextFetch
  refine ⟨fun x k l s hin hkl hlx hpc => ?_, fun x k s hin hk hpc => ?_⟩
  · have hlast : k.val + 1 < (s.regsUpTo x).length := by
      rw [length_regsUpTo, hkl]
      exact Nat.lt_succ_of_le hlx
    refine ⟨_, (exec_storeRegs x s).trans (if_pos (by omega)), ?_⟩
    rw [wordAtPC_writeBytes_advance hlast hpc, toNat_wordOfBytes, getElem_regsUpTo, getElem_regsUpTo]
    simp only [hkl]
  · have hlast : k + 1 < (decimalDigits (s.reg x)).length := Nat.succ_lt_succ (Nat.lt_succ_of_le hk)
    refine ⟨_, (exec_ldBCD x s).trans (if_pos (by omega)), ?_⟩
    rw [wordAtPC_writeBytes_advance hlast hpc, toNat_wordOfBytes]
    obtain rfl | rfl : k = 0 ∨ k = 1 := by omega
    · simp only [Nat.zero_add, toNat_hundreds, toNat_tens, if_true]
    · simp only [Nat.reduceAdd, toNat_tens, toNat_units, one_ne_zero, if_false]

end Sys2Proof.Machine

namespace Sys2Proof

/-! ## Decoding an encoded instruction (R62, R64, R66) -/

/-- A SYS whose word is CLS's or RET's is ill-formed, so `decode0` takes its third branch (R150). -/
theorem decode0_encodeNNN {nnn : Addr12} (h : (Instr.sys nnn).wf = true) : decode0 (encodeNNN 0x0 nnn) = .sys nnn := by
  obtain ⟨-, hNNN⟩ := fields_encodeNNN (f := 0x0) (by decide) nnn
  simp only [Instr.wf, Bool.and_eq_true, bne_iff_ne, ne_eq] at h
  obtain ⟨hcls, hret⟩ := h
  have hne (op : Word) (hop : nnn ≠ fieldNNN op) : encodeNNN 0x0 nnn ≠ op := fun e => hop (e ▸ hNNN.symm)
  rw [decode0, if_neg (hne 0x00E0 hcls), if_neg (hne 0x00EE hret), hNNN]

/-- The decoder reads back the fields the encoder wrote, format by format. -/
theorem decode_encode {i : Instr} (h : i.wf = true) : decode (encode i) = .ok i := by
  cases i with
  | cls | ret => decide
  | sys nnn => simp [encode, decode, fields_encodeNNN, decode0_encodeNNN h]
  | jp | call | jpV0 | ldI => simp [encode, decode, fields_encodeNNN]
  | seImm | sneImm | ldImm | addImm | rnd => simp [encode, decode, fields_encodeXNN]
  | skp | sknp => simp [encode, decode, decodeE, fields_encodeXNN]
  | ldFromDT | ldDT | ldST | ldFont | storeRegs | loadRegs | ldBCD | waitKey | addI =>
    simp [encode, decode, decodeF, fields_encodeXNN]
  | seReg | sneReg | drw => simp [encode, decode, fields_encodeXYN]
  | ldReg | addReg | sub | subn | orReg | andReg | xorReg | shr | shl =>
    simp [encode, decode, decode8, fields_encodeXYN]

theorem decodeBytes_cons_cons (hi lo : Byte) (rest : List Byte) :
    decodeBytes (hi :: lo :: rest) = (decode (wordOfBytes hi lo)).map (·, rest) := by
  rw [decodeBytes]
  cases decode (wordOfBytes hi lo) <;> rfl

/-- Settles O1: the two bytes make the word of the instruction again, and decoding inverts encoding on words. -/
theorem decodeInvertsEncode : Obligations.DecodeInvertsEncode := by
  unfold Obligations.DecodeInvertsEncode
  intro i rest hwf
  calc decodeBytes (encodeBytes i ++ rest)
      = (decode (wordOfBytes (highByte (encode i)) (lowByte (encode i)))).map (·, rest) :=
        decodeBytes_cons_cons _ _ rest
    _ = .ok (i, rest) := by rw [wordOfBytes_bytes, decode_encode hwf]; rfl

/-! ## Encoding a decoded instruction (R61, R64, R66) -/

section Fields
variable {op : Word} {f : Nat} (hF : fieldF op = f)
include hF

/-- A word is its own fields in format NNN. -/
theorem encodeNNN_of_fields : encodeNNN f (fieldNNN op) = op := by
  have := op.isLt
  rw [fieldF_eq] at hF
  apply BitVec.eq_of_toNat_eq
  rw [toNat_encodeNNN (by omega), toNat_fieldNNN]
  omega

/-- A word is its own fields in format XNN. -/
theorem encodeXNN_of_fields {nn : Byte} (hNN : (fieldNN op).toNat = nn.toNat) :
    encodeXNN f (fieldX op) nn = op := by
  have := op.isLt
  rw [fieldF_eq] at hF
  rw [toNat_fieldNN] at hNN
  apply BitVec.eq_of_toNat_eq
  rw [toNat_encodeXNN (by omega), val_fieldX]
  omega

/-- A word is its own fields in format XYN. -/
theorem encodeXYN_of_fields {n : Fin 16} (hN : (fieldN op).val = n.val) :
    encodeXYN f (fieldX op) (fieldY op) n = op := by
  have := op.isLt
  rw [fieldF_eq] at hF
  rw [val_fieldN] at hN
  apply BitVec.eq_of_toNat_eq
  rw [toNat_encodeXYN (by omega), val_fieldX, val_fieldY]
  omega

end Fields

section Families
variable {op : Word} {i : Instr}

/-- Family 0x0: SYS is what remains once the words of CLS and RET are taken, so it is well-formed (R150). -/
theorem encode_decode0 (hF : fieldF op = 0x0) : (decode0 op).wf = true ∧ encode (decode0 op) = op := by
  unfold decode0
  split
  · next hcls => exact ⟨rfl, hcls.symm⟩
  split
  · next hret => exact ⟨rfl, hret.symm⟩
  · next hcls hret =>
    have hop : encodeNNN 0x0 (fieldNNN op) = op := encodeNNN_of_fields hF
    refine ⟨?_, hop⟩
    simp only [Instr.wf, Bool.and_eq_true, bne_iff_ne, ne_eq]
    exact ⟨fun e => hcls (by rw [← hop, e]; rfl), fun e => hret (by rw [← hop, e]; rfl)⟩

theorem encode_of_decode8 (hF : fieldF op = 0x8) (h : decode8 op = .ok i) : i.wf = true ∧ encode i = op := by
  unfold decode8 at h
  split at h <;> cases h
  all_goals next hN => exact ⟨rfl, encodeXYN_of_fields hF hN⟩

theorem encode_of_decodeE (hF : fieldF op = 0xE) (h : decodeE op = .ok i) : i.wf = true ∧ encode i = op := by
  unfold decodeE at h
  split at h <;> cases h
  all_goals next hNN => exact ⟨rfl, encodeXNN_of_fields hF hNN⟩

theorem encode_of_decodeF (hF : fieldF op = 0xF) (h : decodeF op = .ok i) : i.wf = true ∧ encode i = op := by
  unfold decodeF at h
  split at h <;> cases h
  all_goals next hNN => exact ⟨rfl, encodeXNN_of_fields hF hNN⟩

/-- Each family's branch of the decoder puts the fields of the word into an instruction of one format. -/
theorem encode_of_decode (h : decode op = .ok i) : i.wf = true ∧ encode i = op := by
  unfold decode at h
  split at h
  case h_1 hF => cases h; exact encode_decode0 hF
  case h_2 hF | h_3 hF | h_11 hF | h_12 hF => cases h; exact ⟨rfl, encodeNNN_of_fields hF⟩
  case h_4 hF | h_5 hF | h_7 hF | h_8 hF | h_13 hF => cases h; exact ⟨rfl, encodeXNN_of_fields hF rfl⟩
  case h_6 hF | h_10 hF =>
    split at h <;> cases h
    next hN => exact ⟨rfl, encodeXYN_of_fields hF (congrArg Fin.val hN)⟩
  case h_14 hF => cases h; exact ⟨rfl, encodeXYN_of_fields hF rfl⟩
  case h_9 hF => exact encode_of_decode8 hF h
  case h_15 hF => exact encode_of_decodeE hF h
  case h_16 =>
    have hlt : fieldF op < 16 := (op.extractLsb' 12 4).isLt
    have hF : fieldF op = 0xF := by grind
    exact encode_of_decodeF hF h

end Families

/-- Settles O2, by the families of the decoder. -/
theorem encodeInvertsDecode : Obligations.EncodeInvertsDecode := by
  unfold Obligations.EncodeInvertsDecode
  exact fun op i h => encode_of_decode h

/-! ## The rows of the table (R66, the column match / mask) -/

/-- `op` selects the row of `i`: `op & mask = match`. -/
def Instr.Selects (op : Word) (i : Instr) : Prop := op &&& i.matchMask.2 = i.matchMask.1

open Laws.EncodesItsRow in
theorem selects_encode : ∀ i : Instr, Instr.Selects (encode i) i
  | .cls => cls
  | .ret => ret
  | .jp _ => jp _
  | .call _ => call _
  | .jpV0 _ => jpV0 _
  | .seImm _ _ => seImm _ _
  | .sneImm _ _ => sneImm _ _
  | .seReg _ _ => seReg _ _
  | .sneReg _ _ => sneReg _ _
  | .skp _ => skp _
  | .sknp _ => sknp _
  | .ldImm _ _ => ldImm _ _
  | .ldReg _ _ => ldReg _ _
  | .ldI _ => ldI _
  | .ldFromDT _ => ldFromDT _
  | .ldDT _ => ldDT _
  | .ldST _ => ldST _
  | .ldFont _ => ldFont _
  | .storeRegs _ => storeRegs _
  | .loadRegs _ => loadRegs _
  | .addImm _ _ => addImm _ _
  | .addReg _ _ => addReg _ _
  | .sub _ _ => sub _ _
  | .subn _ _ => subn _ _
  | .orReg _ _ => orReg _ _
  | .andReg _ _ => andReg _ _
  | .xorReg _ _ => xorReg _ _
  | .shr _ _ => shr _ _
  | .shl _ _ => shl _ _
  | .rnd _ _ => rnd _ _
  | .ldBCD _ => ldBCD _
  | .drw _ _ _ => drw _ _ _
  | .waitKey _ => waitKey _
  | .sys _ => sys _
  | .addI _ => addI _

/-- The rows of R66 as pairs of match and mask, in the order of `Instr`. -/
def tableRows : List (Word × Word) :=
  [.cls, .ret, .jp 0, .call 0, .jpV0 0, .seImm 0 0, .sneImm 0 0, .seReg 0 0, .sneReg 0 0, .skp 0, .sknp 0, .ldImm 0 0,
    .ldReg 0 0, .ldI 0, .ldFromDT 0, .ldDT 0, .ldST 0, .ldFont 0, .storeRegs 0, .loadRegs 0, .addImm 0 0, .addReg 0 0,
    .sub 0 0, .subn 0 0, .orReg 0 0, .andReg 0 0, .xorReg 0 0, .shr 0 0, .shl 0 0, .rnd 0 0, .ldBCD 0, .drw 0 0 0,
    .waitKey 0, .sys 0, .addI 0].map Instr.matchMask

theorem getElem?_tableRows (i : Instr) : tableRows[i.ctorIdx]? = some i.matchMask := by
  cases i <;> rfl

theorem matchMask_mem_tableRows (i : Instr) : i.matchMask ∈ tableRows :=
  List.mem_of_getElem? (getElem?_tableRows i)

/-- A row of fixed words takes precedence over the row of 0NNN. -/
abbrev RowPrecedes (r q : Word × Word) : Prop := r.2 = 0xFFFF ∧ q = (0x0000, 0xF000)

/-- Rows whose matches agree on the bits both masks look at are the same row, or one takes precedence. -/
abbrev RowsApart (r q : Word × Word) : Prop := r.1 &&& q.2 = q.1 &&& r.2 → r = q ∨ RowPrecedes r q ∨ RowPrecedes q r

theorem RowsApart.symm {r q : Word × Word} (h : RowsApart r q) : RowsApart q r := fun hqr =>
  (h hqr.symm).imp Eq.symm Or.symm

theorem tableRows_pairwise_apart : tableRows.Pairwise RowsApart := by decide

section Rows
variable {op : Word} {i j : Instr}

theorem matchMask_apart (i j : Instr) : RowsApart i.matchMask j.matchMask :=
  have : Std.Symm RowsApart := ⟨fun _ _ => RowsApart.symm⟩
  tableRows_pairwise_apart.forall_of_forall (fun _ _ _ => .inl rfl) (matchMask_mem_tableRows i)
    (matchMask_mem_tableRows j)

/-- A word that selects two rows makes their matches agree on the bits both masks look at. -/
theorem match_and_mask_comm_of_selects (hi : Instr.Selects op i) (hj : Instr.Selects op j) :
    i.matchMask.1 &&& j.matchMask.2 = j.matchMask.1 &&& i.matchMask.2 := by
  rw [← hi, ← hj, BitVec.and_assoc, BitVec.and_assoc, BitVec.and_comm i.matchMask.2]

theorem cls_or_ret_of_fullMask (h : i.matchMask.2 = 0xFFFF) : i = .cls ∨ i = .ret := by
  cases i with
  | cls => exact .inl rfl
  | ret => exact .inr rfl
  | _ => simp [Instr.matchMask] at h

/-- The words of the rows CLS and RET decode to CLS and RET, before the row of 0NNN is looked at (R64). -/
theorem eq_of_decode_of_selects_fullMask (h : decode op = .ok i) (hj : Instr.Selects op j)
    (hmask : j.matchMask.2 = 0xFFFF) : i = j := by
  have hop : op = j.matchMask.1 := by
    rw [Instr.Selects, hmask] at hj
    exact (BitVec.and_allOnes (x := op)).symm.trans hj
  subst hop
  obtain rfl | rfl := cls_or_ret_of_fullMask hmask <;> exact (Except.ok.inj h).symm

end Rows

/-- Settles O3: the word is the instruction's encoding, which selects its row; a second row that it selects is the same or
stands in the one precedence, which the decoder resolves for CLS and RET. -/
theorem decodedWordSelectsOneRow : Obligations.DecodedWordSelectsOneRow := by
  unfold Obligations.DecodedWordSelectsOneRow
  intro op i h
  obtain ⟨-, hop⟩ := encode_of_decode h
  have hi : Instr.Selects op i := hop ▸ selects_encode i
  refine ⟨hi, fun j hj => ?_⟩
  obtain hsame | ⟨hmask, hsys⟩ | ⟨hmask, -⟩ := matchMask_apart i j (match_and_mask_comm_of_selects hi hj)
  · exact .inl hsame.symm
  · exact .inr ⟨cls_or_ret_of_fullMask hmask, hsys⟩
  · exact .inl (by rw [eq_of_decode_of_selects_fullMask h hj hmask])

/-- Settles O4: fifteen fixed words, which the decoder is run on. -/
theorem patternWordsDecode : Obligations.PatternWordsDecode := by
  unfold Obligations.PatternWordsDecode
  decide

end Sys2Proof

namespace Sys2Proof.Machine

/-! ## What a step answers and returns (R67, R69, R177) -/

/-- Settles O10: a machine that is not Halted stays in its key wait, latches a fault or executes, which is total. -/
theorem unhaltedStepHasNextState : Obligations.UnhaltedStepHasNextState := by
  unfold Obligations.UnhaltedStepHasNextState
  intro s hs
  obtain ⟨k, hk, -⟩ | ⟨-, -, hstay⟩ | ⟨-, -, k, -, hraise⟩ | ⟨-, -, i, -, hexec⟩ := step_cases s
  · rw [hs] at hk; cases hk
  · exact ⟨s, hstay⟩
  · exact ⟨_, hraise⟩
  · exact hexec ▸ exec_total i s

/-- Settles O6: below 0xFFF both bytes are in memory, so the word at PC is the instruction fetched. -/
theorem stepExecutesDecodedInstruction : Obligations.StepExecutesDecodedInstruction := by
  unfold Obligations.StepExecutesDecodedInstruction
  intro s i hs hpc hi
  exact step_of_fetchInstr_ok hs ((fetchInstr_ok s i).2 ⟨by omega, hi⟩)

section StepResult
variable {s t : State} (hs : s.Running)
include hs

theorem stepResult_of_fetchInstr_error {k : Fault} (hk : fetchInstr s = .error k) :
    stepResult s = some (.fault k) := by
  obtain ⟨hfault, hwait⟩ := hs
  simp only [stepResult, hfault, hwait, hk, Bool.false_eq_true, if_false]

/-- A running machine that executes returns the fault the execution latched, or the outcome of the instruction. -/
theorem stepResult_of_exec {i : Instr} (hi : fetchInstr s = .ok i) (h : exec i s = .next t) :
    stepResult s = some (t.fault.elim (.ok (outcomeOf i)) .fault) := by
  obtain ⟨hfault, hwait⟩ := hs
  simp only [stepResult, hfault, hwait, hi, h, Bool.false_eq_true, if_false]
  cases t.fault <;> rfl

theorem stepResult_of_fault {k : Fault} (h : step s = .next t) (hk : t.fault = some k) :
    stepResult s = some (.fault k) := by
  cases hi : fetchInstr s with
  | error e =>
    rw [step_of_fetchInstr_error hs hi] at h
    cases h; cases hk
    exact stepResult_of_fetchInstr_error hs hi
  | ok i =>
    rw [step_of_fetchInstr_ok hs hi] at h
    rw [stepResult_of_exec hs hi h, hk]; rfl

theorem stepResult_of_no_fault {i : Instr} (hi : fetchInstr s = .ok i) (h : step s = .next t) (hk : t.fault = none) :
    stepResult s = some (.ok (outcomeOf i)) := by
  rw [step_of_fetchInstr_ok hs hi] at h
  rw [stepResult_of_exec hs hi h, hk]; rfl

end StepResult

theorem outcomeOf_eq_advanced {i : Instr} (hcls : i ≠ .cls) (hdrw : ∀ x y n, i ≠ .drw x y n)
    (hwait : ∀ x, i ≠ .waitKey x) : outcomeOf i = .advanced := by
  cases i with
  | cls => exact absurd rfl hcls
  | drw x y n => exact absurd rfl (hdrw x y n)
  | waitKey x => exact absurd rfl (hwait x)
  | _ => rfl

/-- Settles O13: the step returns the fault it latched or the outcome of its instruction, and `outcomeOf` is the table of
R69. -/
theorem stepResultByInstruction : Obligations.StepResultByInstruction := by
  unfold Obligations.StepResultByInstruction
  refine ⟨fun s t k hs h hk => stepResult_of_fault hs h hk, fun s t i hs hi h hk => ?_⟩
  have hres := stepResult_of_no_fault hs hi h hk
  refine ⟨?_, ?_, fun hcls hdrw hwait => outcomeOf_eq_advanced hcls hdrw hwait ▸ hres⟩
  · rintro (rfl | ⟨x, y, n, rfl⟩) <;> exact hres
  · rintro ⟨x, rfl⟩
    exact hres

/-! ## How PC moves (R13, R68) -/

theorem skipIf_pc_eq_or (s : State) (c : Bool) : (s.skipIf c).pc = s.pc + 4 ∨ (s.skipIf c).pc = s.pc + 2 := by
  cases c
  · exact .inr rfl
  · exact .inl rfl

theorem exec_pc_of_fault {i : Instr} {s t : State} (h : exec i s = .next t) (hs : s.fault = none)
    (ht : t.fault ≠ none) : t.pc = s.pc := by
  obtain ⟨k, rfl⟩ | hf := exec_frame h
  · rfl
  · have hsame : t.fault = s.fault := hf.same .fault (by cases i <;> simp [mayWrite])
    exact absurd (hsame.trans hs) ht

/-- Settles O14: a fault leaves PC alone, and an instruction that completes ends in the advance, the skip, the jump or the
key wait of its rule. -/
theorem programCounterAdvance : Obligations.ProgramCounterAdvance := by
  unfold Obligations.ProgramCounterAdvance
  intro i s t hs h
  refine ⟨exec_pc_of_fault h hs, fun ht => ?_⟩
  cases i with
  | jp | call | jpV0 | ret => trivial
  | seImm | sneImm | seReg | sneReg | skp | sknp => cases h; exact skipIf_pc_eq_or s _
  | waitKey => cases h; rfl
  | sys => cases h; cases ht
  | storeRegs | loadRegs | ldBCD | drw | addI =>
    simp only [exec_storeRegs, exec_loadRegs, exec_ldBCD, exec_drw, exec_addI] at h
    split at h <;> obtain rfl := Host.Outcome.next.inj h
    · simp
    · cases ht
  | orReg | andReg | xorReg => cases h; rw [advance_pc, setLogic_pc]
  | _ => cases h; rfl

end Sys2Proof.Machine

namespace Sys2Proof.Machine

/-! ## Control flow (R80 to R84) -/

theorem toNat_absolute (nnn : Addr12) : (absolute nnn).toNat = nnn.toNat :=
  BitVec.toNat_setWidth_of_le (by decide)

/-- The sum of a 12-bit address and a byte is below 0x10FF, so 16 bits hold it (R84). -/
theorem toNat_absolutePlusV0 (s : State) (nnn : Addr12) :
    (absolutePlusV0 s nnn).toNat = nnn.toNat + (s.reg 0).toNat := by
  rw [absolutePlusV0, BitVec.toNat_ofNat]
  exact Nat.mod_eq_of_lt (by omega)

theorem pixel_blank (x : Fin 64) (y : Fin 32) : Display.pixel Display.blank x y = false := by
  simp [Display.pixel, Display.blank]

/-- Settles O17: the pixels of the blank display, and the frame of every instruction. -/
theorem clearDisplay : Obligations.ClearDisplay := by
  unfold Obligations.ClearDisplay
  exact fun s => ⟨_, rfl, pixel_blank, rfl, rfl, instructionsChangeOnlyTheirParts .cls s _ rfl rfl⟩

/-- Settles O18: the target is NNN zero-extended, and a fetch at 0xFFF is out of memory. -/
theorem jumpSetsProgramCounter : Obligations.JumpSetsProgramCounter := by
  unfold Obligations.JumpSetsProgramCounter
  refine fun nnn => ⟨toNat_encodeNNN (f := 0x1) (by decide) nnn, rfl, fun s => ?_⟩
  refine ⟨_, rfl, toNat_absolute nnn, instructionsChangeOnlyTheirParts (.jp nnn) s _ rfl rfl, ?_⟩
  rintro rfl hs
  exact fetchReadsTwoBytesBigEndianOrFaults.1 (s.jump _) hs (toNat_absolute 0xFFF).ge

/-- Settles O19: the target is an exact sum (decision D8). -/
theorem jumpWithOffset : Obligations.JumpWithOffset := by
  unfold Obligations.JumpWithOffset
  exact fun nnn s =>
    ⟨_, rfl, toNat_absolutePlusV0 s nnn, instructionsChangeOnlyTheirParts (.jpV0 nnn) s _ rfl rfl⟩

/-- Settles O20: `exec_call` on each side of its bound; the push sets entry SP alone. -/
theorem callPushesReturnAddress : Obligations.CallPushesReturnAddress := by
  unfold Obligations.CallPushesReturnAddress
  refine ⟨fun nnn => ⟨toNat_encodeNNN (f := 0x2) (by decide) nnn, rfl⟩, fun nnn s hsp => ?_, fun nnn s hsp => ?_⟩
  · have hexec := (exec_call nnn s).trans (dif_pos hsp)
    refine ⟨_, hexec, rfl, fun k => ?_, toNat_absolute nnn, instructionsChangeOnlyTheirParts _ s _ hexec rfl⟩
    simp only [Vector.getElem_set, eq_comm]
  · exact (exec_call nnn s).trans (dif_neg (by omega))

/-- Settles O21: `exec_ret` on each side of its bound; a target above 0xFFE faults at the fetch of the next step. -/
theorem returnPopsIntoProgramCounter : Obligations.ReturnPopsIntoProgramCounter := by
  unfold Obligations.ReturnPopsIntoProgramCounter
  refine ⟨⟨rfl, rfl⟩, fun s hsp => ?_, fun s hsp => ?_⟩
  · have hexec := (exec_ret s).trans (dif_pos hsp)
    refine ⟨_, hexec, rfl, rfl, rfl, instructionsChangeOnlyTheirParts _ s _ hexec rfl, fun hpc hs => ?_⟩
    exact fetchReadsTwoBytesBigEndianOrFaults.1 _ hs hpc
  · exact (exec_ret s).trans (dif_neg (by omega))

/-- Settles O22, from what the call pushes and what the return pops: the top entry after the call is entry SP. -/
theorem callThenReturnResumes : Obligations.CallThenReturnResumes := by
  unfold Obligations.CallThenReturnResumes
  intro nnn s hs
  obtain ⟨-, hcompletes, -⟩ := callPushesReturnAddress
  obtain ⟨t, hcall, htsp, hentry, -, htsame⟩ := hcompletes nnn s hs
  obtain ⟨-, hpops, -⟩ := returnPopsIntoProgramCounter
  obtain ⟨u, hret, husp, hupc, -, husame, -⟩ := hpops t (by omega)
  have hpushed : t.stack[s.sp.val] = s.pc + 2 := (hentry ⟨s.sp.val, hs⟩).trans (if_pos rfl)
  refine ⟨t, u, hcall, hret, ?_, Fin.ext (by omega), fun p hp => Part.same_trans (htsame p hp) (husame p hp)⟩
  simpa only [htsp, Nat.add_sub_cancel, hpushed] using hupc

end Sys2Proof.Machine

namespace Sys2Proof.Machine

/-! ## Conditional skips (R90 to R96) -/

section SkipRule
variable {i : Instr} {s : State} {c : Bool} {p : Prop} [Decidable p] (h : exec i s = .next (s.skipIf c))
include h

/-- The common rule of the skips (R90). -/
theorem exec_skips_if (hc : c = true ↔ p) :
    ∃ t, exec i s = .next t ∧ t.pc = (if p then s.pc + 4 else s.pc + 2) ∧ SameBut [.pc] s t :=
  ⟨_, h, (skipIf_pc s c).trans (if_congr hc rfl rfl), (frame_pc s _).same⟩

/-- R90 for the skip of a pair that tests the complement of the other's condition. -/
theorem exec_skips_unless (hc : c = true ↔ ¬p) :
    ∃ t, exec i s = .next t ∧ t.pc = (if p then s.pc + 2 else s.pc + 4) ∧ SameBut [.pc] s t := by
  simpa only [ite_not] using exec_skips_if h hc

end SkipRule

/-- Settles O23: each of the four ends in the skip of R90, on its comparison or on the complement. -/
theorem compareAndSkip : Obligations.CompareAndSkip := by
  unfold Obligations.CompareAndSkip
  intro x y nn s
  refine ⟨?seImm, ?sneImm, ?seReg, ?sneReg⟩
  case seImm | seReg => exact exec_skips_if rfl decide_eq_true_iff
  case sneImm | sneReg => exact exec_skips_unless rfl decide_eq_true_iff

theorem keyIndex_val (b : Byte) : (keyIndex b).val = b.toNat % 16 := by
  simp [keyIndex]

/-- The key a skip tests is the one the low nibble of VX numbers (decision D10). -/
theorem keyOf_eq_getElem_key {s : State} {x : RegIx} {k : Fin 16} (hk : (s.reg x).toNat % 16 = k.val) :
    s.keyOf x = s.key[k.val] := by
  simp only [State.keyOf, keyIndex_val, hk]

/-- Settles O24: both end in the skip of R90, on the key that the low nibble numbers or on its complement. -/
theorem keySkip : Obligations.KeySkip := by
  unfold Obligations.KeySkip
  intro x k s hk
  have hkey : s.keyOf x = true ↔ s.key[k.val] = true := by rw [keyOf_eq_getElem_key hk]
  have hnot : (!s.keyOf x) = true ↔ ¬ s.key[k.val] = true := by rw [Bool.not_eq_true', ← hkey, Bool.not_eq_true]
  exact ⟨exec_skips_if rfl hkey, exec_skips_unless rfl hnot⟩

end Sys2Proof.Machine

namespace Sys2Proof.Machine

/-! ## Loads and stores (R100 to R108, R112) -/

theorem lt_length_regsUpTo {s : State} {k x : RegIx} (hk : k ≤ x) : k.val < (s.regsUpTo x).length := by
  rw [length_regsUpTo]
  exact Nat.lt_succ_of_le hk

/-- Register K, where the store of V0 to VX at `a` put it (R107). -/
theorem readByte_store_regsUpTo (s : State) (a : Nat) {k x : RegIx} (hk : k ≤ x) :
    (s.writeBytes a (s.regsUpTo x)).readByte (a + k.val) = s.reg k := by
  have hlen := lt_length_regsUpTo (s := s) hk
  rw [readByte_writeBytes, dif_pos (by omega)]
  simp only [Nat.add_sub_cancel_left, getElem_regsUpTo]

/-- A store of V0 to VX at `a` leaves the bytes below and above it alone (R107). -/
theorem readByte_store_regsUpTo_of_outside (s : State) {a a' : Nat} {x : RegIx} (h : a' < a ∨ a + x.val < a') :
    (s.writeBytes a (s.regsUpTo x)).readByte a' = s.readByte a' := by
  have hlen := length_regsUpTo s x
  rw [readByte_writeBytes, dif_neg (by omega)]

/-- Settles O30: `exec_storeRegs` on each side of its bound, and what a read gives after that store. -/
theorem storeRegisters : Obligations.StoreRegisters := by
  unfold Obligations.StoreRegisters
  refine ⟨fun x s hin => ?_, fun x s hout => (exec_storeRegs x s).trans (if_neg (by omega))⟩
  have hexec := (exec_storeRegs x s).trans (if_pos (by omega))
  exact ⟨_, hexec, fun k hk => readByte_store_regsUpTo s _ hk, fun a ha => readByte_store_regsUpTo_of_outside s ha,
    rfl, instructionsChangeOnlyTheirParts _ s _ hexec rfl⟩

/-- Settles O31: `exec_loadRegs` on each side of its bound, and the registers after that load. -/
theorem loadRegisters : Obligations.LoadRegisters := by
  unfold Obligations.LoadRegisters
  refine ⟨fun x s hin => ?_, fun x s hout => (exec_loadRegs x s).trans (if_neg (by omega))⟩
  have hexec := (exec_loadRegs x s).trans (if_pos (by omega))
  refine ⟨_, hexec, fun k => ?_, ?_, instructionsChangeOnlyTheirParts _ s _ hexec ?_⟩
  · rw [reg_advance, reg_loadRegsFrom]
  · rw [advance_pc, loadRegsFrom_pc]
  · rw [advance_fault, loadRegsFrom_fault]

/-- An instruction that writes one register and advances, whichever register it is (decision D5). -/
theorem exec_writes_one_reg {i : Instr} {s : State} {x : RegIx} {b : Byte}
    (h : exec i s = .next (s.setReg x b).advance) :
    ∃ t, exec i s = .next t ∧ t.reg x = b ∧ RegsSameBut [x] s t ∧ t.pc = s.pc + 2 ∧ SameBut [.regs, .pc] s t := by
  refine ⟨_, h, ?_, fun r hr => ?_, rfl, (frame_v_pc s _ _).same⟩
  · rw [reg_advance, reg_setReg, if_pos rfl]
  · rw [reg_advance, reg_setReg, if_neg (List.mem_singleton.not.1 hr)]

/-- Settles O25: both write one register, the immediate or a copy. -/
theorem loadImmediateAndCopy : Obligations.LoadImmediateAndCopy := by
  unfold Obligations.LoadImmediateAndCopy
  exact fun x y nn s => ⟨exec_writes_one_reg rfl, exec_writes_one_reg rfl⟩

/-- Settles O27: FX07 writes one register, FX15 the timer. -/
theorem delayTimerCopies : Obligations.DelayTimerCopies := by
  unfold Obligations.DelayTimerCopies
  exact fun x s =>
    ⟨exec_writes_one_reg rfl, _, rfl, rfl, rfl, instructionsChangeOnlyTheirParts (.ldDT x) s _ rfl rfl⟩

/-- The source's image A2 2A, loaded on the power-on state, is fetched as LD I, 22A. -/
theorem fetchInstr_load_A22A : fetchInstr (load [0xA2, 0x2A] State.reset).2 = .ok (.ldI 0x22A) := by decide

/-- Settles O26: I is NNN zero-extended; the scenario is a step that fetches LD I, 22A. -/
theorem loadIndex : Obligations.LoadIndex := by
  unfold Obligations.LoadIndex
  refine ⟨fun nnn => ⟨toNat_encodeNNN (f := 0xA) (by decide) nnn, fun s => ?_⟩, ?_⟩
  · exact ⟨_, rfl, toNat_absolute nnn, rfl, instructionsChangeOnlyTheirParts (.ldI nnn) s _ rfl rfl⟩
  · exact ⟨_, step_of_fetchInstr_ok ⟨rfl, rfl⟩ fetchInstr_load_A22A, rfl, rfl⟩

theorem soundActive_iff (s : State) : s.soundActive = true ↔ s.st.toNat ≠ 0 := by
  rw [State.soundActive, decide_eq_true_iff, ne_eq, BitVec.toNat_eq]
  rfl

/-- The word of a format X instruction of family F is `0xF000 + 0x100 X` and its low byte (R61). -/
theorem toNat_encodeF (x : RegIx) (nn : Byte) : (encodeXNN 0xF x nn).toNat = 0xF000 + nn.toNat + 0x100 * x.val := by
  rw [toNat_encodeXNN (by decide)]
  omega

/-- Settles O28: the sound line is ST ≠ 0, and a tick takes ST = 1 to 0. -/
theorem soundTimerSet : Obligations.SoundTimerSet := by
  unfold Obligations.SoundTimerSet
  refine fun x => ⟨toNat_encodeF x 0x18, fun s => ?_⟩
  refine ⟨_, rfl, rfl, soundActive_iff _, fun hone => ?_, rfl,
    instructionsChangeOnlyTheirParts (.ldST x) s _ rfl rfl⟩
  have hst : (countDown (s.reg x)).toNat = 0 := by rw [toNat_countDown, hone]
  exact Bool.eq_false_iff.2 fun hactive => (soundActive_iff _).1 hactive hst

/-- FONT_BASE is at most 0x1B0 and VX × 5 at most 0x4FB, so 16 bits hold the sum (R106). -/
theorem toNat_fontAddress (s : State) (x : RegIx) :
    (fontAddress s x).toNat = s.cfg.fontBase.val + (s.reg x).toNat * 5 := by
  rw [fontAddress, BitVec.toNat_ofNat]
  exact Nat.mod_eq_of_lt (by omega)

/-- Settles O29: the font address is an exact sum, with FONT_BASE and VX at most 0x1B0 and 0xFF (the name `fontAddress`
is the model's own). -/
theorem ldFont_fontAddress : Obligations.FontAddress := by
  unfold Obligations.FontAddress
  refine fun x => ⟨toNat_encodeF x 0x29, fun s => ?_⟩
  have hI := toNat_fontAddress s x
  exact ⟨_, rfl, hI, hI.trans_le (by omega), rfl, instructionsChangeOnlyTheirParts (.ldFont x) s _ rfl rfl⟩

/-- Settles O33: `exec_addI` under each setting; I keeps the sum modulo 2^16. -/
theorem addToIndexWhenEnabled : Obligations.AddToIndexWhenEnabled := by
  unfold Obligations.AddToIndexWhenEnabled
  refine ⟨fun x s hon => ?_, fun x s hoff => (exec_addI x s).trans (if_neg (by simp [hoff]))⟩
  have hexec := (exec_addI x s).trans (if_pos hon)
  exact ⟨_, hexec, BitVec.toNat_ofNat _ _, rfl, instructionsChangeOnlyTheirParts _ s _ hexec rfl⟩

end Sys2Proof.Machine

namespace Sys2Proof.Machine

/-! ## Arithmetic and logic (R115 to R126) -/

section FlagRules
variable (a b : Byte)

theorem toNat_addResult : (addResult a b).toNat = (a.toNat + b.toNat) % 256 :=
  BitVec.toNat_ofNat _ _

theorem toNat_subResult : (subResult a b).toNat = (a.toNat + 256 - b.toNat) % 256 := by
  rw [subResult, BitVec.toNat_ofInt]
  omega

/-- Half a byte is a byte, so the shift loses nothing but the bit shifted out (R125). -/
theorem toNat_shrResult : (shrResult a).toNat = a.toNat / 2 := by
  rw [shrResult, BitVec.toNat_ofNat]
  exact Nat.mod_eq_of_lt (by omega)

theorem toNat_shlResult : (shlResult a).toNat = 2 * a.toNat % 256 :=
  BitVec.toNat_ofNat _ _

theorem toNat_addCarry : (addCarry a b).toNat = if a.toNat + b.toNat > 255 then 1 else 0 :=
  Bool.cond_decide _ _ _

theorem toNat_notBorrow : (notBorrow a b).toNat = if a.toNat ≥ b.toNat then 1 else 0 :=
  Bool.cond_decide _ _ _

theorem toNat_shrOut : (shrOut a).toNat = a.toNat % 2 := by
  rw [shrOut, BitVec.getLsbD, Nat.toNat_testBit, pow_zero, Nat.div_one]

/-- Bit 7 is the quotient by 128, which a byte holds at most once (R126). -/
theorem toNat_shlOut : (shlOut a).toNat = a.toNat / 128 := by
  rw [shlOut, BitVec.getLsbD, Nat.toNat_testBit]
  exact Nat.mod_eq_of_lt (by omega)

end FlagRules

theorem shiftSource_eq_reg (s : State) (x y : RegIx) :
    shiftSource s x y = s.reg (if s.cfg.shiftSrc = .vx then x else y) := by
  unfold shiftSource
  cases s.cfg.shiftSrc <;> rfl

/-- A flag register holds its flag as the number 0 or 1 (R11). -/
theorem toNat_ite_flag (f : Bool) : (if f then 1 else 0 : Byte).toNat = f.toNat := by
  cases f <;> rfl

/-- An instruction that writes VX and then the flag to VF, and advances: VF wins when X = 15 (R119, decision D4). -/
theorem exec_writes_reg_and_flag {i : Instr} {s : State} {x : RegIx} {b : Byte} {f : Bool} {value flag : Nat}
    (h : exec i s = .next (s.setRegFlag x b f).advance) (hvalue : b.toNat = value) (hflag : f.toNat = flag) :
    ∃ t, exec i s = .next t ∧ (x ≠ 15 → (t.reg x).toNat = value) ∧ (t.reg 15).toNat = flag ∧
      RegsSameBut [x, 15] s t ∧ t.pc = s.pc + 2 ∧ SameBut [.regs, .pc] s t := by
  refine ⟨_, h, fun hx => ?_, ?_, fun r hr => ?_, rfl, (frame_v_pc s _ _).same⟩
  · rw [reg_advance, reg_setRegFlag, if_neg hx, if_pos rfl, hvalue]
  · rw [reg_advance, reg_setRegFlag, if_pos rfl, toNat_ite_flag, hflag]
  · obtain ⟨hx, hr15⟩ : r ≠ x ∧ r ≠ 15 := by simpa using hr
    rw [reg_advance, reg_setRegFlag, if_neg hr15, if_neg hx]

/-- The common end of 8XY1, 8XY2 and 8XY3 (R121): VX takes the bytes' combination bit by bit, and VF 0 under
LOGIC_RESETS_VF alone (decision D3). -/
theorem exec_writes_bitwise {i : Instr} {s : State} {x y : RegIx} {b : Byte} {f : Bool → Bool → Bool}
    (h : exec i s = .next (s.setLogic x b).advance)
    (hb : ∀ k, b.getLsbD k = f ((s.reg x).getLsbD k) ((s.reg y).getLsbD k)) :
    ∃ t, exec i s = .next t ∧
      (¬ (s.cfg.logicResetsVF = true ∧ x = 15) →
        ∀ k : Nat, k < 8 → (t.reg x).getLsbD k = f ((s.reg x).getLsbD k) ((s.reg y).getLsbD k)) ∧
      (s.cfg.logicResetsVF = true → t.reg 15 = 0 ∧ RegsSameBut [x, 15] s t) ∧
      (s.cfg.logicResetsVF = false → RegsSameBut [x] s t) ∧
      t.pc = s.pc + 2 ∧ SameBut [.regs, .pc] s t := by
  refine ⟨_, h, fun hx k _ => ?_, fun hreset => ⟨?_, fun r hr => ?_⟩, fun hkeep r hr => ?_, ?_,
    (frame_setLogic_advance s x b).same⟩
  · rw [reg_advance, reg_setLogic, if_neg hx, if_pos rfl, hb]
  · rw [reg_advance, reg_setLogic, if_pos ⟨hreset, rfl⟩]
  · obtain ⟨hx, hr15⟩ : r ≠ x ∧ r ≠ 15 := by simpa using hr
    rw [reg_advance, reg_setLogic, if_neg (fun h => hr15 h.2), if_neg hx]
  · rw [reg_advance, reg_setLogic, if_neg (by simp [hkeep]), if_neg (List.mem_singleton.not.1 hr)]
  · rw [advance_pc, setLogic_pc]

/-- Settles O34: 7XNN writes one register, the sum. -/
theorem addImmediate : Obligations.AddImmediate := by
  unfold Obligations.AddImmediate
  intro x nn s
  obtain ⟨t, hexec, hreg, hframe⟩ := exec_writes_one_reg (i := .addImm x nn) (s := s) rfl
  exact ⟨t, hexec, hreg ▸ toNat_addResult _ _, hframe⟩

/-- Settles O35: 8XY4 writes the sum and its carry. -/
theorem addWithCarryFlag : Obligations.AddWithCarryFlag := by
  unfold Obligations.AddWithCarryFlag
  exact fun x y s => exec_writes_reg_and_flag rfl (toNat_addResult _ _) (toNat_addCarry _ _)

/-- Settles O36: each of the two writes its difference and the not-borrow of the same operands in the same order. -/
theorem subtractWithBorrowFlag : Obligations.SubtractWithBorrowFlag := by
  unfold Obligations.SubtractWithBorrowFlag
  exact fun x y s =>
    ⟨exec_writes_reg_and_flag rfl (toNat_subResult _ _) (toNat_notBorrow _ _),
      exec_writes_reg_and_flag rfl (toNat_subResult _ _) (toNat_notBorrow _ _)⟩

/-- Settles O37: the three share their end, and differ in the operation on each bit. -/
theorem bitwiseLogic : Obligations.BitwiseLogic := by
  unfold Obligations.BitwiseLogic
  intro x y s
  refine ⟨?orReg, ?andReg, ?xorReg⟩
  case orReg => exact exec_writes_bitwise rfl fun _ => BitVec.getLsbD_or
  case andReg => exact exec_writes_bitwise rfl fun _ => BitVec.getLsbD_and
  case xorReg => exact exec_writes_bitwise rfl fun _ => BitVec.getLsbD_xor

/-- Settles O38: each of the two shifts the source SHIFT_SRC names and writes the bit shifted out. -/
theorem shiftByOne : Obligations.ShiftByOne := by
  unfold Obligations.ShiftByOne
  rintro x y src s rfl
  rw [← shiftSource_eq_reg]
  exact ⟨exec_writes_reg_and_flag rfl (toNat_shrResult _) (toNat_shrOut _),
    exec_writes_reg_and_flag rfl (toNat_shlResult _) (toNat_shlOut _)⟩

end Sys2Proof.Machine

namespace Sys2Proof.Machine

/-! ## The random byte (R130, R131) -/

/-- Settles O39: VX takes the byte drawn, masked; the rest are the frames of every instruction's registers and parts. -/
theorem randomByteMasked : Obligations.RandomByteMasked := by
  unfold Obligations.RandomByteMasked
  intro x nn s
  refine ⟨_, rfl, ?_, rfl, fun r hr => ?_, rfl, instructionsChangeOnlyTheirParts (.rnd x nn) s _ rfl rfl⟩
  · rw [reg_advance, reg_setReg, if_pos rfl, drawByte]
  · exact instructionsChangeOnlyTheirRegisters (.rnd x nn) s _ r rfl (List.mem_singleton.not.1 hr)

end Sys2Proof.Machine

namespace Sys2Proof.Machine

/-! ## The decimal digits of a register (R133) -/

/-- Byte `k` of a store at `a` reads back at `a + k` (R49). -/
theorem readByte_writeBytes_add (s : State) (a : Nat) {bs : List Byte} {k : Nat} (hk : k < bs.length) :
    (s.writeBytes a bs).readByte (a + k) = bs[k] := by
  rw [readByte_writeBytes, dif_pos (by omega)]
  simp only [Nat.add_sub_cancel_left]

@[simp] theorem length_decimalDigits (b : Byte) : (decimalDigits b).length = 3 := rfl

/-- The three digits stored at `a` leave the bytes below and above them alone (R133). -/
theorem readByte_store_decimalDigits_of_outside (s : State) (b : Byte) {a a' : Nat} (h : a' < a ∨ a + 2 < a') :
    (s.writeBytes a (decimalDigits b)).readByte a' = s.readByte a' := by
  have hlen := length_decimalDigits b
  rw [readByte_writeBytes, dif_neg (by omega)]

/-- Settles O40: `exec_ldBCD` on each side of its bound, and each digit where the store put it. -/
theorem decimalDigitsStored : Obligations.DecimalDigitsStored := by
  unfold Obligations.DecimalDigitsStored
  refine ⟨fun x s hin => ?_, fun x s hout => (exec_ldBCD x s).trans (if_neg (by omega))⟩
  have hexec := (exec_ldBCD x s).trans (if_pos (by omega))
  have hread {k : Nat} (hk : k < (decimalDigits (s.reg x)).length) :=
    congrArg BitVec.toNat (readByte_writeBytes_add s s.i.toNat hk)
  refine ⟨_, hexec, ?hundreds, ?tens, ?units, fun a ha => readByte_store_decimalDigits_of_outside s _ ha, rfl,
    instructionsChangeOnlyTheirParts _ s _ hexec rfl⟩
  case hundreds => exact (hread (k := 0) (by simp)).trans (toNat_hundreds _ _)
  case tens => exact (hread (k := 1) (by simp)).trans (toNat_tens _ _)
  case units => exact (hread (k := 2) (by simp)).trans (toNat_units _ _)

end Sys2Proof.Machine

namespace Sys2Proof.Machine

/-! ## The sprite XOR compositor (R135 to R141) -/

/-- Settles O42: `exec_drw` above its bound. -/
theorem drawOutsideMemoryFaults : Obligations.DrawOutsideMemoryFaults := by
  unfold Obligations.DrawOutsideMemoryFaults
  exact fun x y n s hn hout => (exec_drw x y n s).trans (if_neg (by omega))

theorem ite_flag_eq_one_iff (f : Bool) : (if f then 1 else 0 : Byte) = 1 ↔ f = true := by
  cases f <;> decide

/-- Settles O41: `exec_drw` below its bound, what the drawn sprite does to pixels and flag, and the frames of every
instruction's registers and parts. -/
theorem drawFlipsSpritePixels : Obligations.DrawFlipsSpritePixels := by
  unfold Obligations.DrawFlipsSpritePixels
  intro x y n s hin
  have hexec := (exec_drw x y n s).trans (if_pos (by omega))
  obtain ⟨hpixels, hflag⟩ := drawSprite_state s x y n
  refine ⟨_, hexec, hpixels, ?zeroOrOne, ?collision, fun r hr => ?register, rfl, rfl,
    instructionsChangeOnlyTheirParts _ s _ hexec rfl⟩
  case zeroOrOne => rw [reg_advance, reg_setFlag, if_pos rfl]; exact ite_eq_or_eq _ _ _
  case collision => rw [reg_advance, reg_setFlag, if_pos rfl, ite_flag_eq_one_iff, hflag]
  case register => exact instructionsChangeOnlyTheirRegisters _ s _ r hexec (List.mem_singleton.not.1 hr)

section Sprite
variable {x y : RegIx} {n : Fin 16} {s t : State}

/-- Where a sprite lies is settled by its two coordinates, I and memory. -/
theorem spriteCovers_congr (hx : t.reg x = s.reg x) (hy : t.reg y = s.reg y) (hi : t.i = s.i)
    (hmem : ∀ a, t.readByte a = s.readByte a) (px : Fin 64) (py : Fin 32) :
    SpriteCovers t x y n px py ↔ SpriteCovers s x y n px py := by
  simp only [SpriteCovers, hx, hy, hi, hmem]

/-- Every 1 bit of a sprite covers a pixel, since both coordinates wrap (R137); `c` counts bits from the lowest, as
columns count from the highest. -/
theorem exists_spriteCovers_iff :
    (∃ px py, SpriteCovers s x y n px py) ↔
      ∃ r c : Nat, r < n.val ∧ c < 8 ∧ (s.readByte (s.i.toNat + r)).getLsbD c = true := by
  constructor
  · rintro ⟨-, -, r, c, hr, -, -, -, hbit⟩
    exact ⟨r, 7 - c, hr, by omega, hbit⟩
  · rintro ⟨r, c, hr, hc, hbit⟩
    refine ⟨Fin.ofNat 64 ((s.reg x).toNat + (7 - c)), Fin.ofNat 32 ((s.reg y).toNat + r),
      r, 7 - c, hr, by omega, rfl, rfl, ?_⟩
    rwa [Nat.sub_sub_self (by omega)]

end Sprite

/-- Settles O43: two draws by O41. The first leaves the sprite where it was, as it writes no register but VF, nor I nor
memory, so the second flips the same pixels and finds set those that were clear. -/
theorem doubleDrawRestoresDisplay : Obligations.DoubleDrawRestoresDisplay := by
  unfold Obligations.DoubleDrawRestoresDisplay
  intro x y n s hx hy hin
  obtain ⟨t, hst, htpixels, -, -, htregs, -, -, htsame⟩ := drawFlipsSpritePixels x y n s hin
  have hi : t.i = s.i := htsame .index (by decide)
  obtain ⟨u, htu, hupixels, -, huflag, -⟩ := drawFlipsSpritePixels x y n t (by rwa [hi])
  have hcovers := spriteCovers_congr (n := n) (htregs x (List.mem_singleton.not.2 hx))
    (htregs y (List.mem_singleton.not.2 hy)) hi (htsame .memory (by decide))
  simp only [hcovers, htpixels] at hupixels huflag
  have hcollides : u.reg 15 = 1 ↔ ∃ px py, Display.pixel s.display px py = false ∧ SpriteCovers s x y n px py := by
    refine huflag.trans (exists_congr fun px => exists_congr fun py => and_congr_left fun hc => ?_)
    simp [hc]
  refine ⟨t, u, hst, htu, fun px py => ?_, hcollides, fun hclear => ?_⟩
  · rw [Bool.eq_iff_iff, hupixels]
    tauto
  · rw [hcollides, ← exists_spriteCovers_iff]
    exact exists_congr fun px => exists_congr fun py => and_iff_right_of_imp (hclear px py)

end Sys2Proof.Machine

namespace Sys2Proof.Machine

/-! ## The key wait (R145 to R149) -/

/-- Settles O44: the meaning sets WAIT and WREG, and every other part stays by the frame of every instruction. -/
theorem keyWaitSuspends : Obligations.KeyWaitSuspends := by
  unfold Obligations.KeyWaitSuspends
  exact fun x s => ⟨_, rfl, rfl, rfl, instructionsChangeOnlyTheirParts (.waitKey x) s _ rfl rfl⟩

/-- Settles O9: WAIT is looked at before the fetch, so nothing is executed. -/
theorem waitingStepChangesNothing : Obligations.WaitingStepChangesNothing := by
  unfold Obligations.WaitingStepChangesNothing
  intro s hfault hwait
  constructor
  · simp only [step, hfault, hwait, if_true]
  · simp only [stepResult, hfault, hwait, if_true]

/-! ### Key presses (R147, R173, R175) -/

section Completes
variable {k : Fin 16} {s : State}

theorem keyPress_of_completes (h : s.wait = true ∧ s.key[k.val] = false) :
    keyPress k.val s =
      { (s.setReg s.wreg (BitVec.ofNat 8 k.val)).advance with key := s.key.set k.val true, wait := false } :=
  (dif_pos k.isLt).trans (if_pos h)

theorem keyPress_of_not_completes (h : ¬ (s.wait = true ∧ s.key[k.val] = false)) :
    keyPress k.val s = { s with key := s.key.set k.val true } :=
  (dif_pos k.isLt).trans (if_neg h)

/-- The register that the suspended FX0A names takes the key code, and no other changes (R147). -/
theorem reg_keyPress_of_completes (h : s.wait = true ∧ s.key[k.val] = false) (r : RegIx) :
    (keyPress k.val s).reg r = if r = s.wreg then BitVec.ofNat 8 k.val else s.reg r := by
  rw [keyPress_of_completes h]
  exact reg_setReg s s.wreg r _

end Completes

/-- Whether or not it completes a wait, a press sets its own key (R173). -/
theorem keyPress_key (k : Fin 16) (s : State) : (keyPress k.val s).key = s.key.set k.val true := by
  by_cases h : s.wait = true ∧ s.key[k.val] = false
  · rw [keyPress_of_completes h]
  · rw [keyPress_of_not_completes h]

theorem keyPress_of_out_of_range {k : Nat} (hk : 15 < k) (s : State) : keyPress k s = s :=
  dif_neg (by omega)

theorem keyPress_frame_of_not_waiting (k : Nat) {s : State} (h : s.wait = false) : Frame [.keys] s (keyPress k s) := by
  by_cases hk : k < 16
  · rw [keyPress_of_not_completes (k := ⟨k, hk⟩) (by simp [h])]
    exact frame_key s _
  · rw [keyPress_of_out_of_range (by omega)]
    exact Frame.refl _ s

/-- Settles O51: the two branches of a press, with the frame of every press; a key code is below 16, so a register holds
it. -/
theorem keyPressCompletesWait : Obligations.KeyPressCompletesWait := by
  unfold Obligations.KeyPressCompletesWait
  rintro k s t rfl
  refine ⟨fun j => ?key, fun h => ?completes, fun h => ?onlyKeys⟩
  case key =>
    simp only [keyPress_key, Vector.getElem_set, Fin.ext_iff, eq_comm]
  case completes =>
    have heq := keyPress_of_completes h
    refine ⟨?_, fun r hr => ?_, congrArg State.pc heq, congrArg State.wait heq, (congrArg State.wreg heq :),
      (keyPress_frame k.val s).same⟩
    · rw [reg_keyPress_of_completes h, if_pos rfl, BitVec.toNat_ofNat]
      exact Nat.mod_eq_of_lt (by omega)
    · rw [reg_keyPress_of_completes h, if_neg (List.mem_singleton.not.1 hr)]
  case onlyKeys =>
    rw [keyPress_of_not_completes h]
    exact (frame_key s _).same

/-! ### Histories that pass a suspended machine by (R146, R148) -/

theorem tickTimers_frame (s : State) : Frame [.delay, .sound] s (tickTimers s) :=
  (frame_dt s (countDown s.dt)).trans (frame_st _ _)

theorem load_of_oversized {image : List Byte} (h : 3584 < image.length) (s : State) :
    load image s = (.programTooLarge, s) :=
  if_pos h

/-- An operation on a machine that executes nothing, suspended or Halted: a step stays, a press during a key wait is of
no key, and a `load` is rejected. -/
theorem apply_frame_of_idle {o : HostOp} {s : State} (hstep : HostOp.step.apply s = s)
    (hpress : s.wait = true → ∀ k, o = .keyPress k → 15 < k) (hload : ∀ image, o = .load image → 3584 < image.length) :
    Frame [.delay, .sound, .keys, .dirty] s (o.apply s) := by
  cases o with
  | step => rw [hstep]; exact Frame.refl _ s
  | tickTimers => exact (tickTimers_frame s).mono (by simp)
  | keyPress k =>
    refine Frame.mono (a := [.keys]) ?_ (by simp)
    cases hw : s.wait with
    | false => exact keyPress_frame_of_not_waiting k hw
    | true =>
      show Frame _ s (keyPress k s)
      rw [keyPress_of_out_of_range (hpress hw k rfl)]
      exact Frame.refl _ s
  | keyRelease k => exact (keyRelease_frame k s).mono (by simp)
  | readDisplay => exact (frame_dirty s false).mono (by simp)
  | load image =>
    show Frame _ s (load image s).2
    rw [load_of_oversized (hload image rfl)]
    exact Frame.refl _ s

/-- A history keeps a property that each of its operations keeps, and changes no more parts than each of them does where
the property holds. -/
theorem runOps_sameBut {changed : List Part} {P : State → Prop} {os : List HostOp}
    (hops : ∀ o ∈ os, ∀ s, P s → P (o.apply s) ∧ SameBut changed s (o.apply s)) {s : State} (hs : P s) :
    P (runOps os s) ∧ SameBut changed s (runOps os s) := by
  induction os generalizing s with
  | nil => exact ⟨hs, (Frame.refl changed s).same⟩
  | cons o os ih =>
    obtain ⟨ho, hsame⟩ := hops o List.mem_cons_self s hs
    obtain ⟨hrun, hrest⟩ := ih (fun o' ho' => hops o' (List.mem_cons_of_mem o ho')) ho
    exact ⟨hrun, fun p hp => Part.same_trans (hsame p hp) (hrest p hp)⟩

/-- Not Halted and awaiting a key: a step stays (R146, R149). -/
abbrev State.Waiting (s : State) : Prop := s.fault = none ∧ s.wait = true

theorem State.Waiting.apply_step {s : State} (h : s.Waiting) : HostOp.step.apply s = s := by
  obtain ⟨hfault, hwait⟩ := h
  obtain ⟨hstep, -⟩ := waitingStepChangesNothing s hfault hwait
  simp only [HostOp.apply, hstep]

/-- Settles O55: no operation of the history executes anything or moves FAULT and WAIT, so each finds the machine still
waiting. -/
theorem keyWaitHasNoTimeout : Obligations.KeyWaitHasNoTimeout := by
  unfold Obligations.KeyWaitHasNoTimeout
  intro os s hfault hwait hos
  have hkeeps : ∀ o ∈ os, ∀ s : State, s.Waiting →
      (o.apply s).Waiting ∧ SameBut [.delay, .sound, .keys, .dirty] s (o.apply s) := by
    intro o ho s hs
    have hstays := hs.apply_step
    obtain ⟨hnone, hwaits⟩ := hs
    obtain ⟨hpress, hload⟩ := hos o ho
    have hsame := (apply_frame_of_idle hstays (fun _ => hpress) hload).same
    obtain ⟨hw, -⟩ := hsame .waiting (by decide)
    have hf := hsame .fault (by decide)
    exact ⟨⟨hf.trans hnone, hw.trans hwaits⟩, hsame⟩
  obtain ⟨⟨-, hwaits⟩, hsame⟩ := runOps_sameBut hkeeps ⟨hfault, hwait⟩
  exact ⟨hwaits, hsame⟩

end Sys2Proof.Machine

namespace Sys2Proof.Machine

/-! ## Loading a program (R190 to R193) -/

/-- The state after `load` of an image that fits: the table of R30, with the image stored at 0x200. -/
def loadedState (image : List Byte) (s : State) : State :=
  State.writeBytes { State.reset with progLen := BitVec.ofNat 12 image.length, cfg := s.cfg, rngPos := s.rngPos }
    loadAddress image

section Fits
variable {image : List Byte} (h : image.length ≤ 3584) (s : State)
include h

theorem load_of_fits : load image s = (.ok, loadedState image s) :=
  if_neg (Nat.not_lt.2 h)

/-- 12 bits hold the length of an image that fits (R29). -/
theorem toNat_progLen_loadedState : (loadedState image s).progLen.toNat = image.length :=
  (BitVec.toNat_ofNat _ _).trans (Nat.mod_eq_of_lt (by omega))

/-- The image ends inside MEM, the stack is empty, and the other clauses are about the values of R30. -/
theorem loadedState_inv : (loadedState image s).Inv where
  mem := Memory.wf_writeAll _ (Memory.wf_nil _) (by rw [loadAddress, memSize]; omega)
  pc := powerOnSatisfiesInvariant.pc
  stack := powerOnSatisfiesInvariant.stack
  index _ := Nat.zero_le _
  subState := powerOnSatisfiesInvariant.subState
  progLen := (toNat_progLen_loadedState h s).trans_le h

end Fits

/-! ## Histories keep the invariant and the parameters (R4, R167, R203) -/

/-- The invariant says nothing of the timers, the keys and DIRTY. -/
theorem State.Inv.of_frame {s t : State} (hs : s.Inv) (h : Frame [.delay, .sound, .keys, .dirty] s t) : t.Inv := by
  have hcfg : t.cfg = s.cfg := h.same .config (by decide)
  have hmem : t.mem = s.mem := h.mem (by decide)
  have hpc : t.pc = s.pc := h.same .pc (by decide)
  have hindex : t.i = s.i := h.same .index (by decide)
  have hprogLen : t.progLen = s.progLen := h.same .progLen (by decide)
  have hfault : t.fault = s.fault := h.same .fault (by decide)
  obtain ⟨hsp, hstack⟩ := h.same .stack (by decide)
  obtain ⟨hwait, -⟩ := h.same .waiting (by decide)
  exact
    { mem := by rw [State.MemWf, hcfg, hmem]; exact hs.mem
      pc := by rw [State.PcOk, hpc, hwait]; exact hs.pc
      stack := by rw [State.StackOk, hsp, hstack]; exact hs.stack
      index := by rw [State.IndexOk, hcfg, hindex]; exact hs.index
      subState := by rw [State.SubStateOk, hwait, hfault]; exact hs.subState
      progLen := by rw [State.ProgLenOk, hprogLen]; exact hs.progLen }

/-- A press that completes a key wait moves PC on from a fetched instruction, so to at most 0x1000 (R14, R147). -/
theorem keyPress_keeps_inv (k : Nat) {s : State} (hs : s.Inv) : (keyPress k s).Inv := by
  by_cases hk : k < 16
  · by_cases h : s.wait = true ∧ s.key[k] = false
    · have hpc := hs.pc.2 h.1
      rw [keyPress_of_completes (k := ⟨k, hk⟩) h]
      refine { hs with pc := ⟨?_, nofun⟩, subState := nofun }
      show (s.pc + 2).toNat ≤ 0x10FE
      bv_omega
    · rw [keyPress_of_not_completes (k := ⟨k, hk⟩) h]
      exact hs.of_frame ((frame_key s _).mono (by simp))
  · rwa [keyPress_of_out_of_range (by omega)]

theorem load_keeps_inv (image : List Byte) {s : State} (hs : s.Inv) : (load image s).2.Inv := by
  by_cases h : image.length ≤ 3584
  · rw [load_of_fits h]; exact loadedState_inv h s
  · rwa [load_of_oversized (by omega)]

theorem load_cfg (image : List Byte) (s : State) : (load image s).2.cfg = s.cfg := by
  by_cases h : image.length ≤ 3584
  · rw [load_of_fits h]; rfl
  · rw [load_of_oversized (by omega)]

theorem apply_keeps_inv (o : HostOp) {s : State} (hs : s.Inv) : (o.apply s).Inv := by
  cases o with
  | step =>
    rw [HostOp.apply]
    split
    · next t ht => exact stepKeepsInvariant s t hs ht
    · exact hs
    · exact hs
  | tickTimers => exact hs.of_frame ((tickTimers_frame s).mono (by simp))
  | keyPress k => exact keyPress_keeps_inv k hs
  | keyRelease k => exact hs.of_frame ((keyRelease_frame k s).mono (by simp))
  | readDisplay => exact hs.of_frame ((frame_dirty s false).mono (by simp))
  | load image => exact load_keeps_inv image hs

theorem apply_cfg (o : HostOp) (s : State) : (o.apply s).cfg = s.cfg := by
  cases o with
  | step =>
    obtain ⟨f, h⟩ | ⟨-, i, -, h⟩ := apply_step_cases s
    · rw [h]
    · exact exec_cfg h
  | tickTimers => exact (tickTimers_frame s).same .config (by decide)
  | keyPress k => exact (keyPress_frame k s).same .config (by decide)
  | keyRelease k => exact (keyRelease_frame k s).same .config (by decide)
  | readDisplay => rfl
  | load image => exact load_cfg image s

/-- Settles O59, by induction on the history: every operation keeps the invariant and the parameters. -/
theorem everyInterleavingKeepsInvariant : Obligations.EveryInterleavingKeepsInvariant := by
  unfold Obligations.EveryInterleavingKeepsInvariant
  intro os s hs
  induction os generalizing s with
  | nil => exact ⟨hs, rfl⟩
  | cons o os ih =>
    obtain ⟨hinv, hcfg⟩ := ih (o.apply s) (apply_keeps_inv o hs)
    exact ⟨hinv, hcfg.trans (apply_cfg o s)⟩

end Sys2Proof.Machine

namespace Sys2Proof.Machine

/-! ## The host's operations one by one (R171, R174, R175, R178, R190, R193) -/

/-- What a read gives after a load of any image: memory lists the image over the font and 0 (R30). -/
theorem readByte_loadedState (image : List Byte) (s : State) (a : Nat) :
    (loadedState image s).readByte a = loadedByte s.cfg image a := by
  rw [loadedState, readByte_writeBytes, loadedByte]
  by_cases hlo : loadAddress ≤ a
  · rw [if_pos hlo]
    by_cases hhi : a < loadAddress + image.length
    · rw [dif_pos ⟨hlo, hhi⟩, List.getElem?_eq_getElem (by omega)]
    · rw [dif_neg (by omega), List.getElem?_eq_none (by omega)]; rfl
  · rw [if_neg hlo, dif_neg (fun h => hlo h.1)]; rfl

/-- Settles O46: every field but the three `load` sets is that of `State.reset`, and memory lists the image alone. -/
theorem loadResetsTheMachine : Obligations.LoadResetsTheMachine := by
  unfold Obligations.LoadResetsTheMachine
  intro image s h
  obtain ⟨hreg, hi, hpc, hsp, hstack, hdt, hst, hdisplay, hdirty, hkey, -, hwait, hwreg, hfault, -⟩ := powerOnState
  exact ⟨_, load_of_fits h s, hreg, hi, hpc, hsp, hstack, hdt, hst, hdisplay, hdirty, hkey,
    toNat_progLen_loadedState h s, hwait, hwreg, hfault, rfl, rfl, fun a _ => readByte_loadedState image s a⟩

/-- Settles O47: the length is looked at before anything is written. -/
theorem oversizedImageChangesNothing : Obligations.OversizedImageChangesNothing := by
  unfold Obligations.OversizedImageChangesNothing
  exact fun image s h => load_of_oversized h s

/-- Settles O49, by induction on the number of ticks. -/
theorem ticksCountDownToZero : Obligations.TicksCountDownToZero := by
  unfold Obligations.TicksCountDownToZero
  intro n s
  induction n with
  | zero => exact ⟨rfl, rfl, (Frame.refl _ s).same⟩
  | succ n ih =>
    obtain ⟨hdt, hst, hsame⟩ := ih
    rw [Function.iterate_succ_apply']
    refine ⟨?_, ?_, fun p hp => Part.same_trans (hsame p hp) ((tickTimers_frame _).same p hp)⟩
    · rw [tickTimers_dt, toNat_countDown, hdt, Nat.sub_sub]
    · rw [tickTimers_st, toNat_countDown, hst, Nat.sub_sub]

theorem keyRelease_key (k : Fin 16) (s : State) : (keyRelease k.val s).key = s.key.set k.val false :=
  congrArg State.key (dif_pos k.isLt)

theorem keyRelease_of_out_of_range {k : Nat} (hk : 15 < k) (s : State) : keyRelease k s = s :=
  dif_neg (by omega)

/-- Settles O52: the entry of the key is set to released, and the frame of every release. -/
theorem keyReleaseClearsKey : Obligations.KeyReleaseClearsKey := by
  unfold Obligations.KeyReleaseClearsKey
  rintro k s t rfl
  refine ⟨fun j => ?_, (keyRelease_frame k.val s).same⟩
  simp only [keyRelease_key, Vector.getElem_set, Fin.ext_iff, eq_comm]

/-- Settles O53: both check the code first. -/
theorem outOfRangeKeysIgnored : Obligations.OutOfRangeKeysIgnored := by
  unfold Obligations.OutOfRangeKeysIgnored
  exact fun k s hk => ⟨keyPress_of_out_of_range hk s, keyRelease_of_out_of_range hk s⟩

/-- Settles O54: the read writes the one field. -/
theorem readDisplayClearsDirty : Obligations.ReadDisplayClearsDirty := by
  unfold Obligations.ReadDisplayClearsDirty
  exact fun s => ⟨rfl, readDisplay_dirty s, (frame_dirty s false).same⟩

end Sys2Proof.Machine

namespace Sys2Proof.Machine

/-! ## Faults (R160 to R165) -/

/-- An execution that raises a fault changes nothing else: one that completes keeps FAULT (R164). -/
theorem exec_eq_of_fault {i : Instr} {s t : State} {k : Fault} (h : exec i s = .next t) (hs : s.fault = none)
    (ht : t.fault = some k) : t = { s with fault := some k } := by
  obtain ⟨k', rfl⟩ | hframe := exec_frame h
  · cases ht; rfl
  · have hsame : t.fault = s.fault := hframe.same .fault (by cases i <;> simp [mayWrite])
    rw [hsame, hs] at ht; cases ht

/-- Settles O11: a fault of a fetch is latched alone, and so is a fault of an execution. -/
theorem faultsArePrecise : Obligations.FaultsArePrecise := by
  unfold Obligations.FaultsArePrecise
  intro s t k hs h ht
  obtain ⟨k', hk', -⟩ | ⟨-, -, hstay⟩ | ⟨-, -, k', -, hraise⟩ | ⟨-, -, i, -, hexec⟩ := step_cases s
  · rw [hs] at hk'; cases hk'
  · rw [hstay] at h; cases h; rw [hs] at ht; cases ht
  · rw [hraise] at h; cases h; cases ht; rfl
  · exact exec_eq_of_fault (hexec ▸ h) hs ht

/-- A meaning that checks a condition first raises its one fault, and only where the condition fails. -/
theorem cause_of_ite {c : Prop} [Decidable c] {s t u : State} {k k' : Fault}
    (h : (if c then .next u else .next { s with fault := some k' } : Host.Outcome State Fault Refusal) = .next t)
    (hu : u.fault = none) (ht : t.fault = some k) : ¬c ∧ k = k' := by
  split at h <;> cases h
  · rw [hu] at ht; cases ht
  · exact ⟨‹_›, (Option.some.inj ht).symm⟩

/-- Settles O12: each instruction that can raise a fault raises it where its condition fails, and every other
instruction completes, which keeps FAULT. -/
theorem executeFaultsHaveTheListedCauses : Obligations.ExecuteFaultsHaveTheListedCauses := by
  unfold Obligations.ExecuteFaultsHaveTheListedCauses
  intro i s t k hs h ht
  cases i with
  | call nnn =>
    rw [exec_call] at h; split at h <;> cases h
    · rw [hs] at ht; cases ht
    · cases ht; exact .inl ⟨rfl, ⟨nnn, rfl⟩, by omega⟩
  | ret =>
    rw [exec_ret] at h; split at h <;> cases h
    · rw [hs] at ht; cases ht
    · cases ht; exact .inr (.inl ⟨rfl, rfl, by omega⟩)
  | storeRegs x =>
    obtain ⟨hout, rfl⟩ := cause_of_ite ((exec_storeRegs x s).symm.trans h) hs ht
    exact .inr (.inr (.inl ⟨rfl, .inl ⟨x, .inl rfl, by omega⟩⟩))
  | loadRegs x =>
    obtain ⟨hout, rfl⟩ := cause_of_ite ((exec_loadRegs x s).symm.trans h) hs ht
    exact .inr (.inr (.inl ⟨rfl, .inl ⟨x, .inr rfl, by omega⟩⟩))
  | ldBCD x =>
    obtain ⟨hout, rfl⟩ := cause_of_ite ((exec_ldBCD x s).symm.trans h) hs ht
    exact .inr (.inr (.inl ⟨rfl, .inr (.inl ⟨⟨x, rfl⟩, by omega⟩)⟩))
  | drw x y n =>
    obtain ⟨hout, rfl⟩ := cause_of_ite ((exec_drw x y n s).symm.trans h) hs ht
    exact .inr (.inr (.inl ⟨rfl, .inr (.inr ⟨x, y, n, rfl, by omega, by omega⟩)⟩))
  | sys nnn => cases h; cases ht; exact .inr (.inr (.inr ⟨rfl, .inl ⟨nnn, rfl⟩⟩))
  | addI x =>
    obtain ⟨hoff, rfl⟩ := cause_of_ite ((exec_addI x s).symm.trans h) hs ht
    exact .inr (.inr (.inr ⟨rfl, .inr ⟨⟨x, rfl⟩, Bool.eq_false_iff.2 hoff⟩⟩))
  | orReg | andReg | xorReg => cases h; rw [advance_fault, setLogic_fault, hs] at ht; cases ht
  | _ => cases h; exact absurd (hs.symm.trans ht) nofun

/-- Settles O8: FAULT is looked at before anything else. -/
theorem haltedStepReturnsLatchedFault : Obligations.HaltedStepReturnsLatchedFault := by
  unfold Obligations.HaltedStepReturnsLatchedFault
  intro s k hk
  have hstep : step s = .fault k := by simp only [step, hk]
  refine ⟨hstep, ?_, ?_⟩
  · simp only [stepResult, hk]
  · simp only [HostOp.apply, hstep]

/-- Halted by the fault `k`, and not also awaiting a key (R149). -/
abbrev State.HaltedBy (k : Fault) (s : State) : Prop := s.fault = some k ∧ s.wait = false

/-- Settles O56: no operation of the history executes anything or moves FAULT and WAIT, so each finds the machine still
Halted. -/
theorem haltedUntilLoad : Obligations.HaltedUntilLoad := by
  unfold Obligations.HaltedUntilLoad
  intro os s k hfault hwait hos
  have hkeeps : ∀ o ∈ os, ∀ s : State, s.HaltedBy k →
      (o.apply s).HaltedBy k ∧ SameBut [.delay, .sound, .keys, .dirty] s (o.apply s) := by
    rintro o ho s ⟨hlatched, hnot⟩
    obtain ⟨-, -, hstays⟩ := haltedStepReturnsLatchedFault s k hlatched
    have hsame := (apply_frame_of_idle hstays (fun hw => by simp [hnot] at hw) (hos o ho)).same
    obtain ⟨hw, -⟩ := hsame .waiting (by decide)
    have hf := hsame .fault (by decide)
    exact ⟨⟨hf.trans hlatched, hw.trans hnot⟩, hsame⟩
  obtain ⟨⟨hlatched, -⟩, hsame⟩ := runOps_sameBut hkeeps ⟨hfault, hwait⟩
  exact ⟨hlatched, hsame⟩

end Sys2Proof.Machine

namespace Sys2Proof.Machine

/-! ## The words that are no instruction (R150, R151) -/

/-- Whether what a word decodes to raises InvalidOpcode: a rejection by the decoder, SYS, or ADD I, VX while it is
disabled. -/
def RaisesInvalidOpcode (c : Config) : Except DecodeError Instr → Prop
  | .error _ => True
  | .ok (.sys _) => True
  | .ok (.addI _) => c.enableFX1E = false
  | .ok _ => False

section Families
variable (c : Config) {op : Word}

theorem decode0_raises_iff (hF : op.toNat / 0x1000 = 0x0) :
    RaisesInvalidOpcode c (.ok (decode0 op)) ↔ op.toNat % 0x1000 ≠ 0x0E0 ∧ op.toNat % 0x1000 ≠ 0x0EE := by
  have hop : op.toNat % 0x1000 = op.toNat := by omega
  have hcls : op = 0x00E0 ↔ op.toNat = 0x0E0 := BitVec.toNat_eq
  have hret : op = 0x00EE ↔ op.toNat = 0x0EE := BitVec.toNat_eq
  rw [hop, ne_eq, ne_eq, ← hcls, ← hret, decode0]
  split_ifs with hE0 hEE
  · exact iff_of_false id fun h => h.1 hE0
  · exact iff_of_false id fun h => h.2 hEE
  · exact iff_of_true trivial ⟨hE0, hEE⟩

theorem decode8_raises_iff :
    RaisesInvalidOpcode c (decode8 op) ↔ op.toNat % 0x10 ∈ [0x8, 0x9, 0xA, 0xB, 0xC, 0xD, 0xF] := by
  rw [← val_fieldN, decode8]
  generalize fieldN op = n
  fin_cases n <;> simp [RaisesInvalidOpcode]

theorem decodeE_raises_iff : RaisesInvalidOpcode c (decodeE op) ↔ op.toNat % 0x100 ∉ [0x9E, 0xA1] := by
  rw [← toNat_fieldNN, decodeE]
  split <;> simp_all [RaisesInvalidOpcode]

theorem decodeF_raises_iff :
    RaisesInvalidOpcode c (decodeF op) ↔
      op.toNat % 0x100 ∉ [0x07, 0x0A, 0x15, 0x18, 0x29, 0x33, 0x55, 0x65] ∧
        ¬ (c.enableFX1E = true ∧ op.toNat % 0x100 = 0x1E) := by
  rw [← toNat_fieldNN, decodeF]
  split <;> simp_all [RaisesInvalidOpcode]

theorem fieldN_eq_zero_iff : fieldN op = 0 ↔ op.toNat % 0x10 = 0 := by
  rw [← val_fieldN, Fin.ext_iff]; rfl

/-- The table of R151 holds the words whose decoding raises InvalidOpcode: family by family, the sub-opcodes that select
no instruction. -/
theorem invalidWord_iff_raises : InvalidWord c op ↔ RaisesInvalidOpcode c (decode op) := by
  have hfamily : op.toNat / 0x1000 ∈ [0x0, 0x5, 0x8, 0x9, 0xE, 0xF] ∨
      op.toNat / 0x1000 ∈ [0x1, 0x2, 0x3, 0x4, 0x6, 0x7, 0xA, 0xB, 0xC, 0xD] := by
    simp only [List.mem_cons, List.not_mem_nil]
    omega
  have h0 := decode0_raises_iff c (op := op)
  rw [InvalidWord, decode, fieldF_eq]
  simp only [fieldN_eq_zero_iff]
  generalize op.toNat / 0x1000 = f at hfamily h0
  obtain hsome | hnone := hfamily
  · simp only [List.mem_cons, List.not_mem_nil, or_false] at hsome
    obtain rfl | rfl | rfl | rfl | rfl | rfl := hsome
    · simp [h0]
    · by_cases hN : op.toNat % 0x10 = 0 <;> simp [hN, RaisesInvalidOpcode]
    · simp [decode8_raises_iff]
    · by_cases hN : op.toNat % 0x10 = 0 <;> simp [hN, RaisesInvalidOpcode]
    · simp [decodeE_raises_iff]
    · simp [decodeF_raises_iff]
  · fin_cases hnone <;> simp [RaisesInvalidOpcode]

end Families

/-- Settles O5: fetch and decode raise InvalidOpcode on a word rejected, execution on SYS and on a disabled ADD I, VX, and
by O12 on no other instruction. -/
theorem invalidWordsExactlyRaiseInvalidOpcode : Obligations.InvalidWordsExactlyRaiseInvalidOpcode := by
  unfold Obligations.InvalidWordsExactlyRaiseInvalidOpcode
  intro s hs hpc
  have hin : s.pc.toNat + 1 < 4096 := by omega
  rw [invalidWord_iff_raises]
  cases hd : decode s.wordAtPC with
  | error e =>
    have hstep := step_of_fetchInstr_error hs ((fetchInstr_error s _).2 (.inr ⟨hin, ⟨e, hd⟩, rfl⟩))
    exact ⟨fun _ => hstep, fun hvalid => absurd trivial hvalid⟩
  | ok i =>
    rw [step_of_fetchInstr_ok hs ((fetchInstr_ok s i).2 ⟨hin, hd⟩)]
    refine ⟨fun hraises => ?_, fun hvalid t h ht => hvalid ?_⟩
    · cases i with
      | sys nnn => exact exec_sys nnn s
      | addI x => exact (exec_addI x s).trans (if_neg (Bool.eq_false_iff.1 hraises))
      | _ => exact hraises.elim
    · obtain ⟨hk, -⟩ | ⟨hk, -⟩ | ⟨hk, -⟩ | ⟨-, ⟨nnn, rfl⟩ | ⟨⟨x, rfl⟩, hoff⟩⟩ :=
        executeFaultsHaveTheListedCauses i s t _ hs.1 h ht
      · cases hk
      · cases hk
      · cases hk
      · trivial
      · exact hoff

/-- Settles O45: the word of a well-formed SYS decodes back to it, and its meaning latches the fault. -/
theorem machineCodeCallRaisesInvalidOpcode : Obligations.MachineCodeCallRaisesInvalidOpcode := by
  unfold Obligations.MachineCodeCallRaisesInvalidOpcode
  refine ⟨fun nnn => ⟨?_, fun hcls hret => decode_encode ?_⟩, fun nnn s => ⟨exec_sys nnn s, rfl⟩⟩
  · rw [encode, toNat_encodeNNN (by decide), Nat.zero_mul, Nat.zero_add]
  · simp only [Instr.wf, Bool.and_eq_true, bne_iff_ne]
    exact ⟨hcls, hret⟩

end Sys2Proof.Machine
